-- ==== Sys2Proof/Word.lean ====
section
/-!
DEFINITION. The value types of the unit (10_state.md rules R15 to R19, R27; 00_scope.md rules R6,
R9, R10, R13; 43_multiply.md rules R68 and R70) and the one narrowing operation.

Notation of the spec and its Lean form: `u(v)` is `v.toNat`, `s(v)` is `v.toInt`, `wrap_N(i)` is
`wrap N i`, `x ++ y` is `x ++ y`, `v[hi:lo]` is `v.extractLsb' lo (hi - lo + 1)`, `v >>a k` is
`v.sshiftRight k`.
-/

namespace Sys2Proof

/-- An 8-bit bit vector read as unsigned (R15). Carry and borrow accumulators are Words too (R60). -/
abbrev Word := BitVec 8

/-- An 8-bit bit vector read as two's complement, used as the high word of a DoubleWord (R16). It
differs from a `Word` only in how it is read. -/
abbrev SignedWord := BitVec 8

/-- Half of a Word, scratch of the multiplier (R19). -/
abbrev Nibble := BitVec 4

/-- A 16-bit request or response field (R21). -/
abbrev Field := BitVec 16

/-- The source's `int16`: a 16-bit bit vector read as two's complement (R27). -/
abbrev Native := BitVec 16

/-- A whole request: `OP[35:32] A[31:16] B[15:0]` (R40). -/
abbrev RequestWord := BitVec 36

/-- `wrap_N(i)`: the `N`-bit vector whose unsigned value is `i mod 2^N` (R10). Every narrowing of
the model is written with it. -/
abbrev wrap (N : Nat) (i : Int) : BitVec N := BitVec.ofInt N i

/-- A 16-bit two's-complement integer held as a signed high word and an unsigned low word (R17). -/
structure DoubleWord where
  hi : SignedWord
  lo : Word
  deriving DecidableEq, Repr

/-- The result type of the comparison, the spec's `Ordering` (R13). -/
inductive DwOrdering where
  | lessThan
  | equal
  | greaterThan
  deriving DecidableEq, Repr

/-- The eight operand nibbles of MUL under their names in R68. -/
structure OperandNibbles where
  nA : Nibble
  nB : Nibble
  nC : Nibble
  nD : Nibble
  nE : Nibble
  nF : Nibble
  nG : Nibble
  nH : Nibble
  deriving DecidableEq, Repr

/-- The ten partial products MUL computes, each held as a Word (R70). The six cross terms at
positions 4 to 6 have no field: they are never computed. -/
structure PartialProducts where
  pHD : Word
  pHC : Word
  pGD : Word
  pHB : Word
  pGC : Word
  pFD : Word
  pHA : Word
  pGB : Word
  pFC : Word
  pED : Word
  deriving DecidableEq, Repr

end Sys2Proof
end

