-- ==== Sys2Proof/Syntax.lean ====
section
/-!
DEFINITION. The terms a host hands to the unit: the operations of spec/opcode_table.json with their
decoded operands (30_encoding.md rules R40, R42, R43, R45), the request word as its three fields
(R40), the two reasons a request is refused (R46, R47, R87), and the assembly lines a host
program is written in (R50 to R52).
-/

namespace Sys2Proof

/-- One constructor per row of spec/opcode_table.json, in the table's order. An operand carries the
type the operation reads its field under: a DoubleWord (R42) or a native value (R43). A format U
operation has no second operand: its `B` field is zero by R47, and the decoder checks it. -/
inductive Instr where
  /-- `CMP A, B` (R61). -/
  | cmp (a b : DoubleWord)
  /-- `ADD A, B` (R64). -/
  | add (a b : DoubleWord)
  /-- `SUB A, B` (R66). -/
  | sub (a b : DoubleWord)
  /-- `MUL A, B` (R77). -/
  | mul (a b : DoubleWord)
  /-- `FROM16 n` (R80). -/
  | from16 (n : Native)
  /-- `TO16 d` (R81). -/
  | to16 (d : DoubleWord)
  deriving DecidableEq, Repr

/-- The request word as its three fields (R40). -/
structure Request where
  op : BitVec 4
  a : Field
  b : Field
  deriving DecidableEq, Repr

/-- The two formats of R40: they differ only in what `B` holds. -/
inductive Format where
  /-- Dyadic: `A` and `B` each hold a DoubleWord. -/
  | D
  /-- Unary: `A` holds the operand and `B` is zero. -/
  | U
  deriving DecidableEq, Repr

/-- Why a request word spells no operation (R87). -/
inductive RefusalReason where
  /-- `OP` is `4'h0` or `4'h7` to `4'hF` (R46). -/
  | reservedOp
  /-- `OP` is `4'h5` or `4'h6` and `B` is not zero (R47). -/
  | nonzeroUnusedOperand
  deriving DecidableEq, Repr

/-- The mnemonics an assembly line may use: the six of the opcode map and the five
pseudo-instructions (R50, R52). -/
inductive AsmMnemonic where
  | cmp
  | add
  | sub
  | mul
  | from16
  | to16
  | neg
  | inc
  | dec
  | sqr
  | sgn
  deriving DecidableEq, Repr

/-- An operand literal as written (R51). -/
inductive AsmLiteral where
  /-- `0x` and its hex digits, most significant first. -/
  | hex (digits : List Nibble)
  /-- Signed decimal. -/
  | dec (value : Int)
  deriving DecidableEq, Repr

/-- An operand of an assembly line: a literal or a name bound by an earlier line (R50). -/
inductive AsmOperand where
  | literal (l : AsmLiteral)
  | name (n : List Char)
  deriving DecidableEq, Repr

/-- One line of a host program (R50). A comment has no meaning and is not kept. -/
structure AsmLine where
  /-- `%name = `, where the line has it. -/
  bind : Option (List Char)
  mnemonic : AsmMnemonic
  operands : List AsmOperand
  deriving DecidableEq, Repr

end Sys2Proof
end

