-- ==== Sys2Proof/WellFormed.lean ====
section
/-!
DEFINITION. What makes a term well formed.

An `Instr` is well formed by its type: every pattern of an operand field is a valid operand (R15 to
R17, R43), so there is no check to make on one. The checks are on what a HOST writes: a request
(R45 to R48, the host's first duty in R102), and the literals and operand counts of an assembly line
(R50, R51).
-/

namespace Sys2Proof

/-- `OP` is one of the six assigned codes of R45. -/
def Request.opAssigned (q : Request) : Bool :=
  decide (1 ≤ q.op.toNat ∧ q.op.toNat ≤ 6)

/-- The unused `B` of a format U request is zero (R47). -/
def Request.unusedZero (q : Request) : Bool :=
  if q.op = 5#4 ∨ q.op = 6#4 then decide (q.b = 0#16) else true

/-- The request is one of the 6 operations of R45 (R48). -/
def Request.wellFormed (q : Request) : Bool :=
  q.opAssigned && q.unusedZero

/-- A literal R51 admits: one to four hex digits, or a decimal from -32768 to 32767. -/
def AsmLiteral.wellFormed : AsmLiteral → Bool
  | .hex digits => decide (1 ≤ digits.length ∧ digits.length ≤ 4)
  | .dec value => decide (-32768 ≤ value ∧ value ≤ 32767)

/-- The literals of an operand are well formed; a name has no check of its own (whether it is bound
depends on the lines before it). -/
def AsmOperand.wellFormed : AsmOperand → Bool
  | .literal l => l.wellFormed
  | .name _ => true

/-- How many operands a mnemonic takes: two for format D, one for format U (R50), one for a
pseudo-instruction (R52). -/
def AsmMnemonic.arity : AsmMnemonic → Nat
  | .cmp => 2
  | .add => 2
  | .sub => 2
  | .mul => 2
  | .from16 => 1
  | .to16 => 1
  | .neg => 1
  | .inc => 1
  | .dec => 1
  | .sqr => 1
  | .sgn => 1

/-- The line has its mnemonic's number of operands, each with a literal R51 admits. -/
def AsmLine.wellFormed (l : AsmLine) : Bool :=
  decide (l.operands.length = l.mnemonic.arity) && l.operands.all AsmOperand.wellFormed

end Sys2Proof
end

