-- ==== Sys2Proof/Decode.lean ====
section
/-!
DEFINITION. The request word, its decoder and its encoder (30_encoding.md rules R40 to R49 and R53),
and the assembly and splitting of 16-bit fields (R17, R30, R42).
-/

namespace Sys2Proof

/-! ### DoubleWords on 16-bit fields -/

/-- `bits(d) = d.hi ++ d.lo` (R17): `hi` on bits [15:8], `lo` on bits [7:0]. -/
def DoubleWord.bits (d : DoubleWord) : Field :=
  d.hi ++ d.lo

/-- An operand field that holds a DoubleWord: `hi = F[15:8]`, `lo = F[7:0]` (R42). -/
def DoubleWord.ofField (f : Field) : DoubleWord where
  hi := f.extractLsb' 8 8
  lo := f.extractLsb' 0 8

/-! ### The request word -/

/-- `OP = w[35:32]`, `A = w[31:16]`, `B = w[15:0]` (R40). -/
def Request.ofWord (w : RequestWord) : Request where
  op := w.extractLsb' 32 4
  a := w.extractLsb' 16 16
  b := w.extractLsb' 0 16

/-- The 36 bits of a request, `OP` most significant (R40). -/
def Request.word (q : Request) : RequestWord :=
  q.op ++ q.a ++ q.b

/-! ### Decoding -/

/-- The decoder of R53 on the three fields. The case list names every value of the 4-bit `OP`; the
last arm is for the type checker alone, since no 4-bit value reaches 16. -/
def decodeRequest (q : Request) : Except RefusalReason Instr :=
  match q.op.toNat with
  | 1 => .ok (.cmp (DoubleWord.ofField q.a) (DoubleWord.ofField q.b))
  | 2 => .ok (.add (DoubleWord.ofField q.a) (DoubleWord.ofField q.b))
  | 3 => .ok (.sub (DoubleWord.ofField q.a) (DoubleWord.ofField q.b))
  | 4 => .ok (.mul (DoubleWord.ofField q.a) (DoubleWord.ofField q.b))
  | 5 => if q.b = 0#16 then .ok (.from16 q.a) else .error .nonzeroUnusedOperand
  | 6 => if q.b = 0#16 then .ok (.to16 (DoubleWord.ofField q.a)) else .error .nonzeroUnusedOperand
  | 0 | 7 | 8 | 9 | 10 | 11 | 12 | 13 | 14 | 15 => .error .reservedOp
  | _ + 16 => .error .reservedOp

/-- The decoder, total on every 36-bit word (R53). -/
def decode (w : RequestWord) : Except RefusalReason Instr :=
  decodeRequest (Request.ofWord w)

/-- The word spells an operation: the request words a host may present (R102). -/
def accepted (w : RequestWord) : Bool :=
  match decode w with
  | .ok _ => true
  | .error _ => false

/-! ### Encoding, from the table of R45 -/

/-- The operation code (R45). -/
def Instr.opcode : Instr → BitVec 4
  | .cmp _ _ => 1#4
  | .add _ _ => 2#4
  | .sub _ _ => 3#4
  | .mul _ _ => 4#4
  | .from16 _ => 5#4
  | .to16 _ => 6#4

/-- The format (R45). -/
def Instr.format : Instr → Format
  | .cmp _ _ => .D
  | .add _ _ => .D
  | .sub _ _ => .D
  | .mul _ _ => .D
  | .from16 _ => .U
  | .to16 _ => .U

/-- What the `A` field holds. -/
def Instr.fieldA : Instr → Field
  | .cmp a _ => a.bits
  | .add a _ => a.bits
  | .sub a _ => a.bits
  | .mul a _ => a.bits
  | .from16 n => n
  | .to16 d => d.bits

/-- What the `B` field holds: zero in format U (R40, R47). -/
def Instr.fieldB : Instr → Field
  | .cmp _ b => b.bits
  | .add _ b => b.bits
  | .sub _ b => b.bits
  | .mul _ b => b.bits
  | .from16 _ => 0#16
  | .to16 _ => 0#16

/-- The request that spells an operation. -/
def encodeRequest (i : Instr) : Request where
  op := i.opcode
  a := i.fieldA
  b := i.fieldB

/-- The request word that spells an operation. -/
def encode (i : Instr) : RequestWord :=
  (encodeRequest i).word

/-! ### The opcode table as data -/

/-- One row of spec/opcode_table.json: a word is the row's operation when its bits under `mask` are
`pattern` (the table's "match"). -/
structure OpcodeRow where
  opcode : BitVec 4
  pattern : RequestWord
  mask : RequestWord
  deriving DecidableEq, Repr

/-- The six rows of spec/opcode_table.json. -/
def opcodeTable : List OpcodeRow :=
  [ ⟨1#4, 0x100000000#36, 0xF00000000#36⟩,
    ⟨2#4, 0x200000000#36, 0xF00000000#36⟩,
    ⟨3#4, 0x300000000#36, 0xF00000000#36⟩,
    ⟨4#4, 0x400000000#36, 0xF00000000#36⟩,
    ⟨5#4, 0x500000000#36, 0xF0000FFFF#36⟩,
    ⟨6#4, 0x600000000#36, 0xF0000FFFF#36⟩ ]

/-- The word matches the row. -/
def OpcodeRow.matchesWord (r : OpcodeRow) (w : RequestWord) : Bool :=
  w &&& r.mask == r.pattern

/-! ### The table's bit numbering -/

/-- The request word whose bits are those of `w`, numbered from bit 0 up, with every bit from
`nbits` on zero. A number that then needs more than 36 bits is no request word: every request has
the one length of R49 (log entry 11). -/
def requestOfTableWord (nbits w : Nat) : Option RequestWord :=
  if w % 2 ^ nbits < 2 ^ 36 then some (BitVec.ofNat 36 (w % 2 ^ nbits)) else none

/-- What the decoder reads from the word whose bits are `w`. -/
def decodeTableWord (nbits w : Nat) : Option Instr :=
  match requestOfTableWord nbits w with
  | none => none
  | some word =>
    match decode word with
    | .ok i => some i
    | .error _ => none

end Sys2Proof
end

