-- ==== Sys2Proof/Machine/State.lean ====
section
/-!
DEFINITION. The state of the unit and of the host side it is connected to, as plain data; the state
after reset; the faults and the refusals (10_state.md rules R21 to R28, 60_exceptions.md rules R84
to R87, 70_reset_and_hazards.md rules R99 and R100).

The unit has no registers, no program counter, no flags, no modes and no memory (R21, R23, R25, R26,
R29). What R21's table lists is the fields `request`, `response` and `refusalMark`. The fields
`inputs` and `taken` are the host's side of the interface, not the unit's (log entries 1 and 6).
-/

namespace Sys2Proof.Machine

/-- What the host does to the unit. -/
inductive HostEvent where
  /-- The host presents a request word (R40). -/
  | present (w : RequestWord)
  /-- The host reads the response field `R` (R21, R99). -/
  | readResponse
  /-- The host resets the unit (R99, R100). -/
  | reset
  deriving DecidableEq, Repr

/-- The state. The widths and writers are those of R21. -/
structure State where
  /-- The request fields `OP`, `A` and `B`, written together by the host with each request (R22,
  R32). `none`: "no value until the host presents a request" (R21; log entry 3). -/
  request : Option Request
  /-- The response field `R`, 16 bits, written by every accepted request (R24). `none`: "`R` holds
  no value" (R99; log entry 2). -/
  response : Option Field
  /-- The refusal mark: set by a refused request, cleared only by reset (R86, R100). -/
  refusalMark : Bool
  /-- What the host will do, next first (R35: one at a time, in the host's order). The model's own
  field: log entry 1. -/
  inputs : List HostEvent
  /-- The values the host's reads of `R` returned, oldest first. The model's own field: log entry
  6. -/
  taken : List Field
  deriving DecidableEq, Repr

/-- The unit right after reset: no request, no response, the mark clear (R99, R100), and nothing on
the host's side. -/
def State.reset : State where
  request := none
  response := none
  refusalMark := false
  inputs := []
  taken := []

/-- Why the machine stops with a fault. No operation of the unit faults (R84). -/
inductive Fault where
  /-- Raised by the host's read of `R` when `R` holds no value (R99: "A model treats such a read as a
  fault, never as `16'h0000` or any other value"). Safe: the spec calls for the fault. `after` is
  the state the read leaves, with the read done and nothing else changed (log entry 5). -/
  | responseUnwritten (after : State)
  deriving DecidableEq, Repr

/-- Why the machine gives no meaning. -/
inductive Refusal where
  /-- Raised by `exec` for an instruction that has no meaning yet. Safe. No arm raises it. -/
  | notModelled (mnemonic : String)
  /-- Raised by the decoding of a request word that spells no operation (R46, R47, R86: "a model
  that meets one refuses it and gives the run no meaning"). Safe: the spec calls for the refusal.
  `after` is the state the refusal leaves, from which the unit takes the next request normally (R86;
  log entry 4). -/
  | requestRefused (reason : RefusalReason) (after : State)
  deriving DecidableEq, Repr

end Sys2Proof.Machine
end

