-- ==== Sys2Proof/Machine/Ops.lean ====
section
/-!
DEFINITION. The operations on the state that the meanings and the host's events share: one per row
of R21's "written by" and "read by" columns. No other definition of the machine writes `response`,
`request`, `refusalMark` or `taken`.

The unit takes no exception and returns from none (R84, R90, R91). Its one outcome beside a response
is the refusal of R86, written once here.
-/

namespace Sys2Proof.Machine

/-- `R <- v`: the whole of the response field (R12, R24). -/
def writeResponse (v : Field) (s : State) : State :=
  { s with response := some v }

/-- The outcome of an accepted request: its result is in `R` and nothing else has changed (R24,
R32, R89). -/
def respond (v : Field) (s : State) : Host.Outcome State Fault Refusal :=
  .next (writeResponse v s)

/-- The host writes the request fields, all at once (R22, R31, R32). -/
def presentRequest (w : RequestWord) (s : State) : State :=
  { s with request := some (Request.ofWord w) }

/-- The model sets its refusal mark (R86). -/
def setRefusalMark (s : State) : State :=
  { s with refusalMark := true }

/-- `refuse(reason)`: the request ends with no response, `R` keeps what it held, and the mark is set
(R12, R86, R90). -/
def refuse (reason : RefusalReason) (s : State) : Host.Outcome State Fault Refusal :=
  .refused (.requestRefused reason (setRefusalMark s))

/-- The host reads `R`: the value goes to the host and the unit does not change; where `R` holds no
value the read is a fault (R24, R99). -/
def readResponse (s : State) : Host.Outcome State Fault Refusal :=
  match s.response with
  | some v => .next { s with taken := s.taken ++ [v] }
  | none => .fault (.responseUnwritten s)

/-- Reset of the unit: `R` holds no value and the mark is clear (R21, R99, R100). DEDUCED (log entry
14): the request fields hold no value either, from R21's reset column. What the host has taken and
will do is the host's, and stays (log entries 1 and 6). -/
def resetUnit (s : State) : State :=
  { s with request := none, response := none, refusalMark := false }

end Sys2Proof.Machine
end

