-- ==== Sys2Proof/Machine/Operands.lean ====
section
/-!
DEFINITION. How an operation reads its operands: the value of a DoubleWord (R17, R18), the boundary
constants (R20), and the nibbles of a word (R54, R55) and of the two operands of MUL (R68).
The assembly of an operand from its request field is in Decode.lean (R42, R43): no operand is
extended, scaled or shifted (R44).
-/

namespace Sys2Proof.Machine

/-- `value(d) = s(bits(d))` (R17). -/
def dwValue (d : DoubleWord) : Int :=
  d.bits.toInt

/-- `MAX_DW`, pattern `16'h7FFF` (R20). -/
def maxDw : DoubleWord where
  hi := BitVec.ofInt 8 127
  lo := BitVec.ofNat 8 255

/-- `MIN_DW`, pattern `16'h8000` (R20; not the source's literal `16'h80FF`, 90_conflicts.md C2). -/
def minDw : DoubleWord where
  hi := BitVec.ofInt 8 (-128)
  lo := BitVec.ofNat 8 0

/-- `hi_nibble(w) = w[7:4]` (R54). A SignedWord is split by its pattern, unsigned (R55). -/
def hiNibble (w : Word) : Nibble :=
  w.extractLsb' 4 4

/-- `lo_nibble(w) = w[3:0]` (R54, R55). -/
def loNibble (w : Word) : Nibble :=
  w.extractLsb' 0 4

/-- The nibbles of the two operands of MUL under their labels (R68). -/
def operandNibbles (a b : DoubleWord) : OperandNibbles where
  nA := hiNibble a.hi
  nB := loNibble a.hi
  nC := hiNibble a.lo
  nD := loNibble a.lo
  nE := hiNibble b.hi
  nF := loNibble b.hi
  nG := hiNibble b.lo
  nH := loNibble b.lo

end Sys2Proof.Machine
end

