-- ==== Sys2Proof/Machine/Flags.lean ====
section
/-!
DEFINITION. The carry and borrow computations of the Word layer (40_word_layer.md rules R56 to R60).

The unit has no status flags (R25): a carry or borrow exists only as an accumulator that a primitive
takes and returns. The accumulator is a Word, it is added to and never overwritten, and past 255 it
wraps (R56, R60). The third argument of each primitive is the accumulator's prior value, never an
addend of the result (R58, R59; 90_conflicts.md C3).
-/

namespace Sys2Proof.Machine

/-- `nibble_add_carry(a, b, carry_acc)` (R56): the low nibble of the sum, and the accumulator with
the sum's high nibble added. -/
def nibbleAddCarry (a b : Nibble) (carryAcc : Word) : Nibble × Word :=
  let sum : Word := wrap 8 (a.toNat + b.toNat)
  (loNibble sum, wrap 8 (carryAcc.toNat + (hiNibble sum).toNat))

/-- `nibble_add(a, b)` (R57): the low nibble of the sum; the overflow is discarded. -/
def nibbleAdd (a b : Nibble) : Nibble :=
  loNibble (wrap 8 (a.toNat + b.toNat))

/-- `word_add_carry(a, b, carry_in)` (R58): overflow is detected by `a > 255 - b` and added into the
accumulator. -/
def wordAddCarry (a b carryIn : Word) : Word × Word :=
  (wrap 8 (a.toNat + b.toNat),
    wrap 8 (carryIn.toNat + (if a.toNat > 255 - b.toNat then 1 else 0)))

/-- `word_sub_borrow(a, b, borrow_in)` (R59): a borrow is detected by `a < b` and added into the
accumulator. -/
def wordSubBorrow (a b borrowIn : Word) : Word × Word :=
  (wrap 8 ((a.toNat : Int) - b.toNat),
    wrap 8 (borrowIn.toNat + (if a.toNat < b.toNat then 1 else 0)))

end Sys2Proof.Machine
end

