-- ==== Sys2Proof/Machine/AddSub.lean ====
section
/-!
DEFINITION. ADD and SUB (42_add_sub.md rules R64 and R66).
-/

namespace Sys2Proof.Machine

/-- The sum of R64: the low words with carry detection, then the high words and the carry with
signed-byte wraparound. -/
def addDw (a b : DoubleWord) : DoubleWord :=
  let low := wordAddCarry a.lo b.lo 0#8
  { hi := wrap 8 (a.hi.toInt + b.hi.toInt + low.2.toNat), lo := low.1 }

/-- The difference of R66: the low words with borrow detection, then the high words less the borrow
with signed-byte wraparound. -/
def subDw (a b : DoubleWord) : DoubleWord :=
  let low := wordSubBorrow a.lo b.lo 0#8
  { hi := wrap 8 (a.hi.toInt - b.hi.toInt - low.2.toNat), lo := low.1 }

/-- `ADD A, B` (R64): no flag and no overflow leaves the operation (R25, R85). -/
def execAdd (a b : DoubleWord) (s : State) : Host.Outcome State Fault Refusal :=
  respond (addDw a b).bits s

/-- `SUB A, B` (R66). -/
def execSub (a b : DoubleWord) (s : State) : Host.Outcome State Fault Refusal :=
  respond (subDw a b).bits s

end Sys2Proof.Machine
end

