-- ==== Sys2Proof/Machine/Compare.lean ====
section
/-!
DEFINITION. CMP (41_compare.md rules R61 and R63).
-/

namespace Sys2Proof.Machine

/-- The two-tier comparison of R61: `hi` signed first, then `lo` unsigned. -/
def compareDw (a b : DoubleWord) : DwOrdering :=
  if a.hi.toInt < b.hi.toInt then .lessThan
  else if a.hi.toInt > b.hi.toInt then .greaterThan
  else if a.lo.toNat < b.lo.toNat then .lessThan
  else if a.lo.toNat > b.lo.toNat then .greaterThan
  else .equal

/-- The code of an Ordering in `R` (R63). -/
def orderingCode : DwOrdering → Field
  | .lessThan => 0xFFFF#16
  | .equal => 0x0000#16
  | .greaterThan => 0x0001#16

/-- `CMP A, B` (R61). -/
def execCmp (a b : DoubleWord) (s : State) : Host.Outcome State Fault Refusal :=
  respond (orderingCode (compareDw a b)) s

end Sys2Proof.Machine
end

