-- ==== Sys2Proof/Machine/Convert.lean ====
section
/-!
DEFINITION. FROM16 and TO16 (44_convert.md rules R80 and R81), each by its own pseudocode (R83).
-/

namespace Sys2Proof.Machine

/-- `from_int16(n)` (R80): `hi` is the native value shifted right arithmetically by 8, narrowed, and
`lo` its low byte. -/
def fromInt16 (n : Native) : DoubleWord where
  hi := wrap 8 (n.sshiftRight 8).toInt
  lo := n.extractLsb' 0 8

/-- `to_int16(d)` (R81): the 16-bit pattern `hi ++ lo`, read as two's complement. -/
def toInt16 (d : DoubleWord) : Native :=
  d.hi ++ d.lo

/-- `FROM16 n` (R80). -/
def execFrom16 (n : Native) (s : State) : Host.Outcome State Fault Refusal :=
  respond (fromInt16 n).bits s

/-- `TO16 d` (R81). -/
def execTo16 (d : DoubleWord) (s : State) : Host.Outcome State Fault Refusal :=
  respond (toInt16 d) s

end Sys2Proof.Machine
end

