-- ==== Sys2Proof/Machine/Multiply.lean ====
section
/-!
DEFINITION. MUL, step by step as the datapath has it (43_multiply.md rules R68 to R77). The lists of
terms are those of R72, which correct the source's (90_conflicts.md C1).
-/

namespace Sys2Proof.Machine

/-- The product of two nibbles, held as a Word (R70): at most 225, so the narrowing drops nothing. -/
def nibbleProduct (m n : Nibble) : Word :=
  wrap 8 (m.toNat * n.toNat)

/-- The ten partial products whose positions sum to at most 3 (R70). -/
def partialProducts (x : OperandNibbles) : PartialProducts where
  pHD := nibbleProduct x.nH x.nD
  pHC := nibbleProduct x.nH x.nC
  pGD := nibbleProduct x.nG x.nD
  pHB := nibbleProduct x.nH x.nB
  pGC := nibbleProduct x.nG x.nC
  pFD := nibbleProduct x.nF x.nD
  pHA := nibbleProduct x.nH x.nA
  pGB := nibbleProduct x.nG x.nB
  pFC := nibbleProduct x.nF x.nC
  pED := nibbleProduct x.nE x.nD

/-- The products with their logical positions, in the order of R70's table. -/
def positionedProducts (p : PartialProducts) : List (Nat × Word) :=
  [(0, p.pHD), (1, p.pHC), (1, p.pGD), (2, p.pHB), (2, p.pGC), (2, p.pFD), (3, p.pHA), (3, p.pGB),
    (3, p.pFC), (3, p.pED)]

/-- The terms of position 1 (R72). -/
def position1Terms (p : PartialProducts) : List Nibble :=
  [hiNibble p.pHD, loNibble p.pHC, loNibble p.pGD]

/-- The terms of position 2 (R72). -/
def position2Terms (p : PartialProducts) : List Nibble :=
  [hiNibble p.pHC, hiNibble p.pGD, loNibble p.pHB, loNibble p.pGC, loNibble p.pFD]

/-- The terms of position 3 (R72). -/
def position3Terms (p : PartialProducts) : List Nibble :=
  [hiNibble p.pHB, hiNibble p.pGC, hiNibble p.pFD, loNibble p.pHA, loNibble p.pGB, loNibble p.pFC,
    loNibble p.pED]

/-- The high nibbles at position 4, which no position receives (R71, R72). -/
def discardedTerms (p : PartialProducts) : List Nibble :=
  [hiNibble p.pHA, hiNibble p.pGB, hiNibble p.pFC, hiNibble p.pED]

/-- A carrying position (R74): the carry in starts the running nibble, a fresh accumulator counts
the overflows, and the result is the running nibble and the accumulator. -/
def carryPosition (c : Word) (terms : List Nibble) : Nibble × Word :=
  terms.foldl (fun running t => nibbleAddCarry running.1 t running.2) (loNibble c, 0#8)

/-- The truncating position (R75): the overflow of every addition is discarded. -/
def truncatePosition (c : Word) (terms : List Nibble) : Nibble :=
  terms.foldl nibbleAdd (loNibble c)

/-- Position 0: `r0` and `c1` (R73). -/
def mulPosition0 (p : PartialProducts) : Nibble × Word :=
  (loNibble p.pHD, 0#8)

/-- Position 1: `r1` and `c2` (R74). -/
def mulPosition1 (p : PartialProducts) : Nibble × Word :=
  carryPosition (mulPosition0 p).2 (position1Terms p)

/-- Position 2: `r2` and `c3` (R74). -/
def mulPosition2 (p : PartialProducts) : Nibble × Word :=
  carryPosition (mulPosition1 p).2 (position2Terms p)

/-- Position 3: `r3` (R75). -/
def mulPosition3 (p : PartialProducts) : Nibble :=
  truncatePosition (mulPosition2 p).2 (position3Terms p)

/-- Assembly of the four result nibbles (R76). -/
def assembleNibbles (r3 r2 r1 r0 : Nibble) : DoubleWord where
  hi := r3 ++ r2
  lo := r1 ++ r0

/-- The truncated product: rules R68 to R76 in order (R77). -/
def mulDw (a b : DoubleWord) : DoubleWord :=
  let p := partialProducts (operandNibbles a b)
  assembleNibbles (mulPosition3 p) (mulPosition2 p).1 (mulPosition1 p).1 (mulPosition0 p).1

/-- `MUL A, B` (R77). -/
def execMul (a b : DoubleWord) (s : State) : Host.Outcome State Fault Refusal :=
  respond (mulDw a b).bits s

end Sys2Proof.Machine
end

