-- ==== Sys2Proof/Machine/Dispatch.lean ====
section
/-!
DEFINITION. The meaning of every instruction, one arm per constructor (30_encoding.md rule R45).
-/

namespace Sys2Proof.Machine

/-- One operation of the unit: the request's response, as its rule gives it. -/
def exec (i : Instr) (s : State) : Host.Outcome State Fault Refusal :=
  match i with
  | .cmp a b => Sys2Proof.Machine.execCmp a b s
  | .add a b => Sys2Proof.Machine.execAdd a b s
  | .sub a b => Sys2Proof.Machine.execSub a b s
  | .mul a b => Sys2Proof.Machine.execMul a b s
  | .from16 n => Sys2Proof.Machine.execFrom16 n s
  | .to16 d => Sys2Proof.Machine.execTo16 d s

end Sys2Proof.Machine
end

