-- ==== Sys2Proof/Machine/HostPort.lean ====
section
/-!
DEFINITION. What one action of the host does to the unit: presenting a request, reading `R`, reset
(20_memory.md rules R32 and R35, 60_exceptions.md rule R86, 70_reset_and_hazards.md rules R99 to
R105). A request is one step, and its response is written in that step (R105).
-/

namespace Sys2Proof.Machine

/-- The unit runs the request its fields hold: the operation it spells, or the refusal (R53, R86).
Without a request the unit is idle and holds `R` (R98). -/
def runRequest (s : State) : Host.Outcome State Fault Refusal :=
  match s.request with
  | none => .next s
  | some q =>
    match decodeRequest q with
    | .ok i => exec i s
    | .error reason => refuse reason s

/-- One action of the host. -/
def handleEvent (e : HostEvent) (s : State) : Host.Outcome State Fault Refusal :=
  match e with
  | .present w => runRequest (presentRequest w s)
  | .readResponse => readResponse s
  | .reset => .next (resetUnit s)

/-- The host's next action is taken from its list, and the unit answers it; with no action left the
unit is idle (R35, R98). -/
def advance (s : State) : Host.Outcome State Fault Refusal :=
  match s.inputs with
  | [] => .next s
  | e :: rest => handleEvent e { s with inputs := rest }

/-- The host's next action is to present the word. -/
def presentNext (w : RequestWord) (s : State) : State :=
  { s with inputs := .present w :: s.inputs }

/-- The host's next action is to present the word whose bits are `w`; a number that is no request
word is presented nowhere. -/
def presentTableWord (nbits w : Nat) (s : State) : State :=
  match requestOfTableWord nbits w with
  | some word => presentNext word s
  | none => s

end Sys2Proof.Machine
end

