-- ==== Sys2Proof/Machine/Step.lean ====
section
/-!
DEFINITION. One step: one action of the host, answered by the unit. The unit fetches nothing (R38):
its next instruction is the request word the host presents next, the head of `inputs`.
-/

namespace Sys2Proof.Machine

/-- One step of the machine. -/
def step : State → Host.Outcome State Fault Refusal :=
  advance

/-- `s` with the instruction whose bits are `w` as the request the host presents next (log entries
11 and 12). -/
def State.withFetchWord (s : State) (nbits w : Nat) : State :=
  presentTableWord nbits w s

end Sys2Proof.Machine
end

