-- ==== Sys2Proof/Machine/Assembler.lean ====
section
/-!
DEFINITION. The spec's notation for requests and host programs (30_encoding.md rules R41 and R50 to
R52): nine-digit request words, assembly lines and their text, the pseudo-instructions, the
disassembler, and a host that runs lines in order and holds the named values (R23, R104). Notation
only: "every line maps to one request word" (92_eei_decisions.md D18). Log entries 15 and 16.
-/

namespace Sys2Proof.Machine

/-! ### Hexadecimal -/

/-- The number that hex digits spell, most significant first. -/
def digitsValue (digits : List Nibble) : Nat :=
  digits.foldl (fun n d => 16 * n + d.toNat) 0

/-- The four hex digits of a 16-bit word, a response word among them (R41, R51). -/
def fieldDigits (v : Field) : List Nibble :=
  [v.extractLsb' 12 4, v.extractLsb' 8 4, v.extractLsb' 4 4, v.extractLsb' 0 4]

/-- The nine hex digits of a request word: `OP`, the four of `A`, the four of `B` (R41). -/
def requestDigits (w : RequestWord) : List Nibble :=
  (Request.ofWord w).op :: (fieldDigits (Request.ofWord w).a ++ fieldDigits (Request.ofWord w).b)

/-- A hex digit's character; the spec writes letters as capitals. -/
def hexChar (d : Nibble) : Char :=
  if d.toNat < 10 then Char.ofNat (48 + d.toNat) else Char.ofNat (55 + d.toNat)

/-- The request word grouped as `O_AAAA_BBBB` (R41). -/
def requestText (w : RequestWord) : List Char :=
  hexChar (Request.ofWord w).op :: '_' ::
    ((fieldDigits (Request.ofWord w).a).map hexChar ++ '_' ::
      (fieldDigits (Request.ofWord w).b).map hexChar)

/-! ### Assembling one line -/

/-- Why a line is an assembly error. -/
inductive AsmError where
  /-- A literal outside R51's two forms. -/
  | badLiteral
  /-- Not the mnemonic's number of operands (R50). -/
  | badOperandCount
  /-- A name no earlier line of the program bound (R50). -/
  | unboundName
  /-- A line outside the grammar of R50. -/
  | badLine
  deriving DecidableEq, Repr

/-- The names the host has bound, latest first (R50). -/
abbrev HostEnv := List (List Char × Field)

/-- The value last bound to a name. -/
def lookupName (n : List Char) : HostEnv → Option Field
  | [] => none
  | (m, v) :: rest => if m = n then some v else lookupName n rest

/-- The 16 bits a literal is encoded as (R51): a hexadecimal one is the pattern, a decimal one
`wrap_16(value)`; any other is an assembly error. -/
def literalField (l : AsmLiteral) : Except AsmError Field :=
  if l.wellFormed then
    match l with
    | .hex digits => .ok (wrap 16 (digitsValue digits))
    | .dec value => .ok (wrap 16 value)
  else .error .badLiteral

/-- The 16 bits an operand stands for (R50, R51). -/
def resolveOperand (env : HostEnv) : AsmOperand → Except AsmError Field
  | .literal l => literalField l
  | .name n =>
    match lookupName n env with
    | some v => .ok v
    | none => .error .unboundName

/-- The operands of a line, left to right. -/
def resolveOperands (env : HostEnv) : List AsmOperand → Except AsmError (List Field)
  | [] => .ok []
  | o :: rest =>
    match resolveOperand env o with
    | .error e => .error e
    | .ok v =>
      match resolveOperands env rest with
      | .error e => .error e
      | .ok vs => .ok (v :: vs)

/-- A format D line takes its operands in the order `A, B` (R50). -/
def dyadic (make : DoubleWord → DoubleWord → Instr) : List Field → Except AsmError Instr
  | [x, y] => .ok (make (DoubleWord.ofField x) (DoubleWord.ofField y))
  | [] => .error .badOperandCount
  | [_] => .error .badOperandCount
  | _ :: _ :: _ :: _ => .error .badOperandCount

/-- A format U line and a pseudo-instruction take one operand (R50, R52). -/
def unary (make : Field → Instr) : List Field → Except AsmError Instr
  | [x] => .ok (make x)
  | [] => .error .badOperandCount
  | _ :: _ :: _ => .error .badOperandCount

/-- The operation a mnemonic and its operand fields spell; each pseudo-instruction expands to one
request (R52). -/
def assembleFields : AsmMnemonic → List Field → Except AsmError Instr
  | .cmp => dyadic .cmp
  | .add => dyadic .add
  | .sub => dyadic .sub
  | .mul => dyadic .mul
  | .from16 => unary .from16
  | .to16 => unary fun x => .to16 (DoubleWord.ofField x)
  | .neg => unary fun x => .sub (DoubleWord.ofField 0x0000#16) (DoubleWord.ofField x)
  | .inc => unary fun x => .add (DoubleWord.ofField x) (DoubleWord.ofField 0x0001#16)
  | .dec => unary fun x => .sub (DoubleWord.ofField x) (DoubleWord.ofField 0x0001#16)
  | .sqr => unary fun x => .mul (DoubleWord.ofField x) (DoubleWord.ofField x)
  | .sgn => unary fun x => .cmp (DoubleWord.ofField x) (DoubleWord.ofField 0x0000#16)

/-- The operation one line assembles to; `encode` gives its request word, with `B = 16'h0000` in
format U (R50). -/
def assembleLine (env : HostEnv) (l : AsmLine) : Except AsmError Instr :=
  match resolveOperands env l.operands with
  | .error e => .error e
  | .ok fields => assembleFields l.mnemonic fields

/-! ### Disassembling -/

/-- The line of an operation: its mnemonic and every operand as four hexadecimal digits (R51). -/
def disassembleInstr (i : Instr) : AsmLine :=
  let hex := fun v : Field => AsmOperand.literal (.hex (fieldDigits v))
  match i with
  | .cmp a b => ⟨none, .cmp, [hex a.bits, hex b.bits]⟩
  | .add a b => ⟨none, .add, [hex a.bits, hex b.bits]⟩
  | .sub a b => ⟨none, .sub, [hex a.bits, hex b.bits]⟩
  | .mul a b => ⟨none, .mul, [hex a.bits, hex b.bits]⟩
  | .from16 n => ⟨none, .from16, [hex n]⟩
  | .to16 d => ⟨none, .to16, [hex d.bits]⟩

/-- The line of a request word; a word that spells no operation has none. -/
def disassemble (w : RequestWord) : Except RefusalReason AsmLine :=
  match decode w with
  | .ok i => .ok (disassembleInstr i)
  | .error reason => .error reason

/-! ### Text -/

/-- How a mnemonic is written (R50, R52). -/
def mnemonicText : AsmMnemonic → List Char
  | .cmp => ['C', 'M', 'P']
  | .add => ['A', 'D', 'D']
  | .sub => ['S', 'U', 'B']
  | .mul => ['M', 'U', 'L']
  | .from16 => ['F', 'R', 'O', 'M', '1', '6']
  | .to16 => ['T', 'O', '1', '6']
  | .neg => ['N', 'E', 'G']
  | .inc => ['I', 'N', 'C']
  | .dec => ['D', 'E', 'C']
  | .sqr => ['S', 'Q', 'R']
  | .sgn => ['S', 'G', 'N']

/-- Every mnemonic of R50. -/
def allMnemonics : List AsmMnemonic :=
  [.cmp, .add, .sub, .mul, .from16, .to16, .neg, .inc, .dec, .sqr, .sgn]

/-- Four hexadecimal digits as written (R51). -/
def hexText (v : Field) : List Char :=
  '0' :: 'x' :: (fieldDigits v).map hexChar

/-- An operation as the disassembler prints it (R50, R51). -/
def instrText (i : Instr) : List Char :=
  match i with
  | .cmp a b => mnemonicText .cmp ++ ' ' :: (hexText a.bits ++ ',' :: ' ' :: hexText b.bits)
  | .add a b => mnemonicText .add ++ ' ' :: (hexText a.bits ++ ',' :: ' ' :: hexText b.bits)
  | .sub a b => mnemonicText .sub ++ ' ' :: (hexText a.bits ++ ',' :: ' ' :: hexText b.bits)
  | .mul a b => mnemonicText .mul ++ ' ' :: (hexText a.bits ++ ',' :: ' ' :: hexText b.bits)
  | .from16 n => mnemonicText .from16 ++ ' ' :: hexText n
  | .to16 d => mnemonicText .to16 ++ ' ' :: hexText d.bits

/-- The text before and after the first place where `separator` stands. -/
def splitFirst (separator : List Char) : List Char → Option (List Char × List Char)
  | [] => none
  | c :: rest =>
    if separator.isPrefixOf (c :: rest) then some ([], (c :: rest).drop separator.length)
    else
      match splitFirst separator rest with
      | some (before, after) => some (c :: before, after)
      | none => none

/-- The digit a character stands for, in either case (log entry 15). -/
def hexDigit (c : Char) : Option Nibble :=
  if 48 ≤ c.toNat ∧ c.toNat ≤ 57 then some (BitVec.ofNat 4 (c.toNat - 48))
  else if 65 ≤ c.toNat ∧ c.toNat ≤ 70 then some (BitVec.ofNat 4 (c.toNat - 55))
  else if 97 ≤ c.toNat ∧ c.toNat ≤ 102 then some (BitVec.ofNat 4 (c.toNat - 87))
  else none

/-- Every character a hex digit. -/
def parseHexDigits : List Char → Option (List Nibble)
  | [] => some []
  | c :: rest =>
    match hexDigit c, parseHexDigits rest with
    | some d, some ds => some (d :: ds)
    | some _, none => none
    | none, _ => none

/-- Every character a decimal digit: the number, given the digits read so far. -/
def parseDecimalFrom (n : Nat) : List Char → Option Nat
  | [] => some n
  | c :: rest =>
    if 48 ≤ c.toNat ∧ c.toNat ≤ 57 then parseDecimalFrom (10 * n + (c.toNat - 48)) rest else none

/-- A decimal number of at least one digit. -/
def parseDecimal : List Char → Option Nat
  | [] => none
  | c :: rest => parseDecimalFrom 0 (c :: rest)

/-- A name: at least one character, none of them a space, a comma or a percent sign (log entry
15). -/
def parseName (cs : List Char) : Option (List Char) :=
  if cs ≠ [] ∧ cs.all (fun c => c ≠ ' ' ∧ c ≠ ',' ∧ c ≠ '%') then some cs else none

/-- `operand ::= hex | dec | "%" name` (R50, R51). -/
def parseOperand (cs : List Char) : Option AsmOperand :=
  match cs with
  | '%' :: n => (parseName n).map .name
  | '0' :: 'x' :: digits => (parseHexDigits digits).map fun ds => .literal (.hex ds)
  | '-' :: digits => (parseDecimal digits).map fun n => .literal (.dec (-(n : Int)))
  | _ => (parseDecimal cs).map fun n => .literal (.dec n)

/-- `operand [ ", " operand ]` (R50). -/
def parseOperands (cs : List Char) : Option (List AsmOperand) :=
  match splitFirst [',', ' '] cs with
  | none => (parseOperand cs).map fun o => [o]
  | some (first, second) =>
    match parseOperand first, parseOperand second with
    | some x, some y => some [x, y]
    | some _, none => none
    | none, _ => none

/-- `mnemonic " " operand [ ", " operand ]` (R50). -/
def parseBody (bind : Option (List Char)) (cs : List Char) : Option AsmLine :=
  match splitFirst [' '] cs with
  | none => none
  | some (word, rest) =>
    match allMnemonics.find? (fun m => mnemonicText m == word), parseOperands rest with
    | some m, some os => some ⟨bind, m, os⟩
    | some _, none => none
    | none, _ => none

/-- One line of R50's grammar, its comment dropped. -/
def parseLine (cs : List Char) : Option AsmLine :=
  let code :=
    match splitFirst [' ', ';', ' '] cs with
    | some (before, _) => before
    | none => cs
  match code with
  | '%' :: rest =>
    match splitFirst [' ', '=', ' '] rest with
    | none => none
    | some (n, body) => (parseName n).bind fun name => parseBody (some name) body
  | _ => parseBody none code

/-- The operation one line of text assembles to (R50). -/
def assembleText (env : HostEnv) (cs : List Char) : Except AsmError Instr :=
  match parseLine cs with
  | none => .error .badLine
  | some l => assembleLine env l

/-! ### Running a host program -/

/-- A host with its named values and the unit it talks to (R23, R50). -/
structure HostSession where
  env : HostEnv
  unit : State
  deriving DecidableEq, Repr

/-- `%name = ` binds the response of the line (R50). -/
def bindName (bind : Option (List Char)) (response : Option Field) (env : HostEnv) : HostEnv :=
  match bind, response with
  | some n, some v => (n, v) :: env
  | some _, none => env
  | none, _ => env

/-- The host presents an operation's request and, where the line binds a name, takes the response
before it goes on (R104). -/
def presentAndBind (bind : Option (List Char)) (i : Instr) (x : HostSession) :
    Host.Outcome HostSession Fault Refusal :=
  match handleEvent (.present (encode i)) x.unit with
  | .fault r => .fault r
  | .refused r => .refused r
  | .next s =>
    match bind with
    | none => .next { x with unit := s }
    | some n =>
      match handleEvent .readResponse s with
      | .fault r => .fault r
      | .refused r => .refused r
      | .next t => .next ⟨bindName (some n) t.response x.env, t⟩

/-- One line of a host program. -/
def runLine (l : AsmLine) (x : HostSession) :
    Except AsmError (Host.Outcome HostSession Fault Refusal) :=
  match assembleLine x.env l with
  | .error e => .error e
  | .ok i => .ok (presentAndBind l.bind i x)

/-- "Lines run in order" (R50): a run of lines without branches, stopping at the first line that does
not end in a next state. The host's branching is prose in the spec, and it decides which lines
these are. -/
def runLines : List AsmLine → HostSession → Except AsmError (Host.Outcome HostSession Fault Refusal)
  | [], x => .ok (.next x)
  | l :: rest, x =>
    match runLine l x with
    | .error e => .error e
    | .ok (.fault r) => .ok (.fault r)
    | .ok (.refused r) => .ok (.refused r)
    | .ok (.next y) => runLines rest y

end Sys2Proof.Machine
end

