-- ==== Sys2Proof/Config.lean ====
section
/-!
DEFINITION. The four parameters the spec leaves open (00_scope.md rule R7).

They are constants without a body: nothing in Lean can evaluate one or prove a value of it.
"No rule of the operation semantics depends on any of them" (R7), and no definition of the
machine reads `latency`, `handshake` or `platformBinding`. `instances` is the size of the
platform of Machine/Platform.lean. Log entry 9.
-/

namespace Sys2Proof

/-- What an implementation fixes and the spec does not (R7). The spec gives these parameters no
type; the types here are the model's (log entry 9, DESIGN CHOICE). -/
structure Config.Parameters where
  /-- `LATENCY`: the time from the acceptance of a request to its response, in a unit of time the
  implementation chooses. -/
  latency : Nat
  /-- `HANDSHAKE`: the name of the signalling by which requests are presented and responses taken. -/
  handshake : String
  /-- `INSTANCES`: how many independent copies of the unit a platform holds. -/
  instances : Nat
  /-- `PLATFORM_BINDING`: the name of the way a platform connects the request and response fields. -/
  platformBinding : String
  deriving DecidableEq, Repr, Inhabited

/-- The parameters of the implementation at hand: a free value. -/
opaque Config.parameters : Config.Parameters

end Sys2Proof
end

