-- ==== Sys2Proof/Machine/Platform.lean ====
section
/-!
DEFINITION. A platform of several units (60_exceptions.md rule R96, 00_scope.md rule R7): units share
no state, have no identifiers an operation can see, and send each other nothing. Which unit steps
next is the platform's, so it is an argument.
-/

namespace Sys2Proof.Machine

/-- A platform of `n` units. -/
abbrev Platform (n : Nat) := Vector State n

/-- The platform of the implementation at hand: `INSTANCES` units. -/
abbrev ConfiguredPlatform := Platform Config.parameters.instances

/-- Unit `k` takes one step; the others are not touched (R96). DESIGN CHOICE (log entry 10): where
unit `k` faults or refuses, the platform's step ends with that unit's own fault or refusal, which
carries that unit's state alone; the spec does not say what a platform does then. -/
def stepUnit {n : Nat} (k : Fin n) (p : Platform n) : Host.Outcome (Platform n) Fault Refusal :=
  match step p[k] with
  | .next s => .next (p.set k s)
  | .fault r => .fault r
  | .refused r => .refused r

end Sys2Proof.Machine
end

