-- ==== Sys2Proof/Safety.lean ====
section
/-!
DEFINITION. What a safe run is, in the terms of the spec: the host keeps its two duties (70_reset_and_hazards.md
rule R102), and no refused word has been met since reset (60_exceptions.md rule R86).
-/

namespace Sys2Proof.Machine

/-- The host's actions keep its two duties (R102): every word it presents is accepted by the
decoder, and it reads `R` only after a response. `written` says whether `R` holds a value before the
first action. -/
def dutifulFrom (written : Bool) : List HostEvent → Bool
  | [] => true
  | .present w :: rest => accepted w && dutifulFrom true rest
  | .readResponse :: rest => written && dutifulFrom written rest
  | .reset :: rest => dutifulFrom false rest

/-- The host's actions to come keep its duties, given what `R` holds now. -/
def State.hostDutiful (s : State) : Bool :=
  dutifulFrom s.response.isSome s.inputs

/-- The run so far has a meaning: no refused word since reset (R86). -/
def State.meaningful (s : State) : Bool :=
  !s.refusalMark

/-- A safe state: meaningful, with a dutiful host. -/
def State.safe (s : State) : Bool :=
  s.meaningful && s.hostDutiful

/-- The response an operation gets when it is the first request after reset: what rule R35 calls
"the response it would get alone" (20_memory.md rule R35, 70_reset_and_hazards.md rule R101). -/
def responseAlone (i : Instr) : Option Field :=
  match exec i State.reset with
  | .next t => t.response
  | .fault _ => none
  | .refused _ => none

end Sys2Proof.Machine
end

