-- ==== Sys2Proof/Certificates/Slice0/Obligations.lean ====
section
/-!
DEFINITION. The statements for the provers. Each docstring names the rules of spec/ it rests on.
-/

open Sys2Proof Sys2Proof.Machine

/-! ### Value types -/

/-- R17: the pattern and the value of a DoubleWord, and the bijection between pairs of bytes and
16-bit patterns. -/
def Obligations.DoubleWordPatternIsBijection : Prop :=
  (∀ d : DoubleWord,
    d.bits = d.hi ++ d.lo ∧ d.bits.extractLsb' 8 8 = d.hi ∧ d.bits.extractLsb' 0 8 = d.lo ∧
    dwValue d = d.bits.toInt ∧ dwValue d = 256 * d.hi.toInt + d.lo.toNat ∧
    -32768 ≤ dwValue d ∧ dwValue d ≤ 32767) ∧
  (∀ d : DoubleWord, DoubleWord.ofField d.bits = d) ∧
  (∀ f : Field, (DoubleWord.ofField f).bits = f)

/-- R18: the sign of the value is the sign of `hi`. -/
def Obligations.SignIsTheSignOfHi : Prop :=
  ∀ d : DoubleWord,
    (dwValue d < 0 ↔ d.hi.toInt < 0) ∧ (dwValue d < 0 ↔ d.hi.getLsbD 7 = true)

/-- R20: the boundary DoubleWords have their patterns and values and bound every DoubleWord. -/
def Obligations.BoundaryDoubleWordsAreExtreme : Prop :=
  maxDw.bits = 0x7FFF#16 ∧ dwValue maxDw = 32767 ∧
  minDw.bits = 0x8000#16 ∧ dwValue minDw = -32768 ∧
  ∀ d : DoubleWord, dwValue minDw ≤ dwValue d ∧ dwValue d ≤ dwValue maxDw

/-! ### Word layer -/

/-- R54: the two nibbles of a Word are its logical shift and its mask, and make it up. -/
def Obligations.NibblesAreShiftAndMask : Prop :=
  ∀ w : Word,
    (hiNibble w).setWidth 8 = w >>> 4 ∧ (loNibble w).setWidth 8 = w &&& 0x0F#8 ∧
    (hiNibble w).toNat = w.toNat / 16 ∧ (loNibble w).toNat = w.toNat % 16 ∧
    w.toNat = 16 * (hiNibble w).toNat + (loNibble w).toNat

/-- R56: nibble addition adds its overflow to the accumulator, which wraps modulo 256. -/
def Obligations.NibbleAddCarryAccumulates : Prop :=
  ∀ (a b : Nibble) (acc : Word),
    (nibbleAddCarry a b acc).1.toNat = (a.toNat + b.toNat) % 16 ∧
    (nibbleAddCarry a b acc).2.toNat = (acc.toNat + (a.toNat + b.toNat) / 16) % 256 ∧
    (a.toNat + b.toNat) / 16 ≤ 1

/-- R57: nibble addition without carry drops the overflow. -/
def Obligations.NibbleAddDropsOverflow : Prop :=
  ∀ a b : Nibble, (nibbleAdd a b).toNat = (a.toNat + b.toNat) % 16

/-- R58: word addition adds its overflow, detected by `a > 255 - b`, to the accumulator, and the
accumulator's prior value is no addend of the result. -/
def Obligations.WordAddCarryAccumulates : Prop :=
  ∀ a b carryIn : Word,
    (wordAddCarry a b carryIn).1.toNat = (a.toNat + b.toNat) % 256 ∧
    (wordAddCarry a b carryIn).2.toNat =
      (carryIn.toNat + (if a.toNat > 255 - b.toNat then 1 else 0)) % 256 ∧
    (a.toNat > 255 - b.toNat ↔ a.toNat + b.toNat ≥ 256) ∧
    (wordAddCarry a b carryIn).2.toNat = (carryIn.toNat + (a.toNat + b.toNat) / 256) % 256

/-- R59: word subtraction adds its borrow, detected by `a < b`, to the accumulator, and the
accumulator's prior value is no subtrahend of the result. -/
def Obligations.WordSubBorrowAccumulates : Prop :=
  ∀ a b borrowIn : Word,
    ((wordSubBorrow a b borrowIn).1.toNat : Int) = ((a.toNat : Int) - b.toNat) % 256 ∧
    (wordSubBorrow a b borrowIn).2.toNat =
      (borrowIn.toNat + (if a.toNat < b.toNat then 1 else 0)) % 256

/-! ### Comparison, addition, subtraction -/

/-- R62 and R63: CMP writes the code of the signed order of its operands, and Equal exactly when the
patterns are equal. It completes in every state and changes `R` alone. -/
def Obligations.CompareAnswersSignedOrder : Prop :=
  ∀ (a b : DoubleWord) (s : State), ∃ code : Field,
    exec (.cmp a b) s = .next { s with response := some code } ∧
    (dwValue a < dwValue b → code = 0xFFFF#16) ∧
    (dwValue a = dwValue b → code = 0x0000#16) ∧
    (dwValue a > dwValue b → code = 0x0001#16) ∧
    (code = 0xFFFF#16 ∨ code = 0x0000#16 ∨ code = 0x0001#16) ∧
    (code = 0x0000#16 ↔ a.bits = b.bits)

/-- R61: the request word of CMP; `hi` decides signed, and `lo` decides unsigned where the `hi`
fields are equal. -/
def Obligations.CompareIsTwoTier : Prop :=
  ∀ (a b : DoubleWord) (s : State),
    encode (.cmp a b) = 1#4 ++ a.bits ++ b.bits ∧
    (a.hi.toInt < b.hi.toInt → exec (.cmp a b) s = .next { s with response := some 0xFFFF#16 }) ∧
    (b.hi.toInt < a.hi.toInt → exec (.cmp a b) s = .next { s with response := some 0x0001#16 }) ∧
    (a.hi = b.hi → a.lo.toNat < b.lo.toNat →
      exec (.cmp a b) s = .next { s with response := some 0xFFFF#16 }) ∧
    (a.hi = b.hi → b.lo.toNat < a.lo.toNat →
      exec (.cmp a b) s = .next { s with response := some 0x0001#16 }) ∧
    (a.hi = b.hi → a.lo = b.lo → exec (.cmp a b) s = .next { s with response := some 0x0000#16 })

/-- R64: the request word of ADD; the low words are added, and their carry goes into the sum of the
high words, which wraps. -/
def Obligations.AddCarriesIntoTheHighWord : Prop :=
  ∀ (a b : DoubleWord) (s : State), ∃ d : DoubleWord,
    encode (.add a b) = 2#4 ++ a.bits ++ b.bits ∧
    exec (.add a b) s = .next { s with response := some d.bits } ∧
    d.lo.toNat = (a.lo.toNat + b.lo.toNat) % 256 ∧
    (a.lo.toNat + b.lo.toNat < 256 → d.hi = wrap 8 (a.hi.toInt + b.hi.toInt)) ∧
    (256 ≤ a.lo.toNat + b.lo.toNat → d.hi = wrap 8 (a.hi.toInt + b.hi.toInt + 1))

/-- R66: the request word of SUB; the low words are subtracted, and their borrow is taken from the
difference of the high words, which wraps. -/
def Obligations.SubBorrowsFromTheHighWord : Prop :=
  ∀ (a b : DoubleWord) (s : State), ∃ d : DoubleWord,
    encode (.sub a b) = 3#4 ++ a.bits ++ b.bits ∧
    exec (.sub a b) s = .next { s with response := some d.bits } ∧
    (d.lo.toNat : Int) = ((a.lo.toNat : Int) - b.lo.toNat) % 256 ∧
    (b.lo.toNat ≤ a.lo.toNat → d.hi = wrap 8 (a.hi.toInt - b.hi.toInt)) ∧
    (a.lo.toNat < b.lo.toNat → d.hi = wrap 8 (a.hi.toInt - b.hi.toInt - 1))

/-- R65: ADD writes the wrapped sum, in the signed and the unsigned reading; it is commutative and
associative on patterns with zero its identity. It completes in every state and changes `R`
alone. -/
def Obligations.AddIsWrappedSum : Prop :=
  (∀ (a b : DoubleWord) (s : State),
    exec (.add a b) s = .next { s with response := some (wrap 16 (dwValue a + dwValue b)) } ∧
    wrap 16 (dwValue a + dwValue b) = wrap 16 ((a.bits.toNat : Int) + b.bits.toNat)) ∧
  (∀ a b : DoubleWord, (addDw a b).bits = (addDw b a).bits) ∧
  (∀ a b c : DoubleWord, (addDw (addDw a b) c).bits = (addDw a (addDw b c)).bits) ∧
  (∀ a : DoubleWord, (addDw a (DoubleWord.ofField 0x0000#16)).bits = a.bits)

/-- R67: SUB writes the wrapped difference, in the signed and the unsigned reading. It completes in
every state and changes `R` alone. -/
def Obligations.SubIsWrappedDifference : Prop :=
  ∀ (a b : DoubleWord) (s : State),
    exec (.sub a b) s = .next { s with response := some (wrap 16 (dwValue a - dwValue b)) } ∧
    wrap 16 (dwValue a - dwValue b) = wrap 16 ((a.bits.toNat : Int) - b.bits.toNat)

/-- R66 and R67: swapping the operands of SUB negates the response, and equal operands give zero. -/
def Obligations.SubSwappedIsNegated : Prop :=
  ∀ a b : DoubleWord,
    (subDw a b).bits = wrap 16 (-dwValue (subDw b a)) ∧ (subDw a a).bits = 0x0000#16

/-! ### Multiplication -/

/-- R68: the eight nibbles are the four-bit fields of the operands, read unsigned; R69: the operand
is the sum of its nibbles at their positions. -/
def Obligations.OperandNibblesAreDigits : Prop :=
  ∀ a b : DoubleWord,
    (operandNibbles a b).nA = a.bits.extractLsb' 12 4 ∧
    (operandNibbles a b).nB = a.bits.extractLsb' 8 4 ∧
    (operandNibbles a b).nC = a.bits.extractLsb' 4 4 ∧
    (operandNibbles a b).nD = a.bits.extractLsb' 0 4 ∧
    (operandNibbles a b).nE = b.bits.extractLsb' 12 4 ∧
    (operandNibbles a b).nF = b.bits.extractLsb' 8 4 ∧
    (operandNibbles a b).nG = b.bits.extractLsb' 4 4 ∧
    (operandNibbles a b).nH = b.bits.extractLsb' 0 4 ∧
    a.bits.toNat = (operandNibbles a b).nD.toNat + 16 * (operandNibbles a b).nC.toNat +
      256 * (operandNibbles a b).nB.toNat + 4096 * (operandNibbles a b).nA.toNat ∧
    b.bits.toNat = (operandNibbles a b).nH.toNat + 16 * (operandNibbles a b).nG.toNat +
      256 * (operandNibbles a b).nF.toNat + 4096 * (operandNibbles a b).nE.toNat

/-- R70: a product of two nibbles fits in a Word, so holding it drops nothing. -/
def Obligations.NibbleProductIsExact : Prop :=
  ∀ m n : Nibble, (nibbleProduct m n).toNat = m.toNat * n.toNat ∧ m.toNat * n.toNat ≤ 225

/-- R71: a product at logical position `k` gives its low nibble to position `k` and its high nibble
to position `k + 1`; a high nibble at position 4 is discarded. -/
def Obligations.ProductsArePlacedByPosition : Prop :=
  ∀ p : PartialProducts,
    let lows := fun k : Nat =>
      ((positionedProducts p).filter fun x => x.1 == k).map fun x => loNibble x.2
    let highs := fun k : Nat =>
      ((positionedProducts p).filter fun x => x.1 == k).map fun x => hiNibble x.2
    lows 0 = [loNibble p.pHD] ∧ (mulPosition0 p).1 = loNibble p.pHD ∧
    position1Terms p = highs 0 ++ lows 1 ∧
    position2Terms p = highs 1 ++ lows 2 ∧
    position3Terms p = highs 2 ++ lows 3 ∧
    discardedTerms p = highs 3

/-- R74: a carrying position gives the low nibble of the carry in and its terms, and carries the
rest; the order of the terms does not matter. -/
def Obligations.CarryPositionIsDivMod : Prop :=
  (∀ (c : Word) (ts : List Nibble), c.toNat < 16 → ts.length < 256 →
    (carryPosition c ts).1.toNat = (c.toNat + (ts.map BitVec.toNat).sum) % 16 ∧
    (carryPosition c ts).2.toNat = (c.toNat + (ts.map BitVec.toNat).sum) / 16) ∧
  (∀ (c : Word) (ts us : List Nibble), ts.Perm us → carryPosition c ts = carryPosition c us)

/-- R75: position 3 gives the carry in and its seven terms modulo 16. -/
def Obligations.LastPositionTruncates : Prop :=
  (∀ p : PartialProducts, (mulPosition3 p).toNat =
    ((mulPosition2 p).2.toNat + (hiNibble p.pHB).toNat + (hiNibble p.pGC).toNat +
      (hiNibble p.pFD).toNat + (loNibble p.pHA).toNat + (loNibble p.pGB).toNat +
      (loNibble p.pFC).toNat + (loNibble p.pED).toNat) % 16) ∧
  (∀ (c : Word) (ts : List Nibble),
    (truncatePosition c ts).toNat = (c.toNat + (ts.map BitVec.toNat).sum) % 16)

/-- R79: the carries of MUL are at most 0, 2 and 4, so they are nibbles; the bounds 2 and 4 are
reached. -/
def Obligations.MulCarriesAreBounded : Prop :=
  (∀ a b : DoubleWord,
    let p := partialProducts (operandNibbles a b)
    (mulPosition0 p).2 = 0#8 ∧ (mulPosition1 p).2.toNat ≤ 2 ∧ (mulPosition2 p).2.toNat ≤ 4 ∧
    (loNibble (mulPosition1 p).2).toNat = (mulPosition1 p).2.toNat ∧
    (loNibble (mulPosition2 p).2).toNat = (mulPosition2 p).2.toNat) ∧
  (∃ a b : DoubleWord, (mulPosition1 (partialProducts (operandNibbles a b))).2.toNat = 2) ∧
  (∃ a b : DoubleWord, (mulPosition2 (partialProducts (operandNibbles a b))).2.toNat = 4)

/-- R78: the request word of MUL, and MUL writes the low 16 bits of the product, in the signed and the unsigned reading; it is
commutative, with identity one and zero annihilating. It completes in every state and changes `R`
alone. -/
def Obligations.MulIsTruncatedProduct : Prop :=
  (∀ (a b : DoubleWord) (s : State),
    encode (.mul a b) = 4#4 ++ a.bits ++ b.bits ∧
    exec (.mul a b) s = .next { s with response := some (wrap 16 (dwValue a * dwValue b)) } ∧
    wrap 16 (dwValue a * dwValue b) = wrap 16 ((a.bits.toNat : Int) * b.bits.toNat)) ∧
  (∀ a b : DoubleWord, (mulDw a b).bits = (mulDw b a).bits) ∧
  (∀ a : DoubleWord, (mulDw a (DoubleWord.ofField 0x0001#16)).bits = a.bits) ∧
  (∀ a : DoubleWord, (mulDw a (DoubleWord.ofField 0x0000#16)).bits = 0x0000#16)

/-! ### Conversion -/

/-- R80: the request word of FROM16, and FROM16 writes the DoubleWord whose `hi` is the floor of the value over 256 and whose `lo` is
the rest. It completes in every state and changes `R` alone. -/
def Obligations.From16SplitsTheValue : Prop :=
  ∀ (n : Native) (s : State), ∃ d : DoubleWord,
    encode (.from16 n) = 5#4 ++ n ++ 0#16 ∧
    exec (.from16 n) s = .next { s with response := some d.bits } ∧
    d.hi = wrap 8 (n.sshiftRight 8).toInt ∧ d.hi = n.extractLsb' 8 8 ∧ d.lo = n.extractLsb' 0 8 ∧
    d.hi.toInt = n.toInt / 256 ∧ (d.lo.toNat : Int) = n.toInt % 256

/-- R81: the request word of TO16, and TO16 writes the pattern `hi ++ lo`, whose signed value is `256 * s(hi) + u(lo)`. It
completes in every state and changes `R` alone. -/
def Obligations.To16JoinsTheBytes : Prop :=
  ∀ (d : DoubleWord) (s : State),
    encode (.to16 d) = 6#4 ++ d.bits ++ 0#16 ∧
    exec (.to16 d) s = .next { s with response := some (d.hi ++ d.lo) } ∧
    (d.hi ++ d.lo : Native).toInt = 256 * d.hi.toInt + d.lo.toNat

/-- R82: FROM16 and then TO16 of its response gives the native value back, and the reverse gives the
DoubleWord back. -/
def Obligations.ConversionsRoundTrip : Prop :=
  (∀ (n : Native) (s : State), ∃ (t : State) (r : Field) (t' : State),
    exec (.from16 n) s = .next t ∧ t.response = some r ∧
    exec (.to16 (DoubleWord.ofField r)) t = .next t' ∧ t'.response = some n) ∧
  (∀ (d : DoubleWord) (s : State), ∃ (t : State) (r : Native) (t' : State),
    exec (.to16 d) s = .next t ∧ t.response = some r ∧
    exec (.from16 r) t = .next t' ∧ t'.response = some d.bits)

/-- R83: on the request and response fields both conversions are the bit identity. -/
def Obligations.ConversionsAreBitIdentity : Prop :=
  ∀ (a : Field) (s : State),
    exec (.from16 a) s = .next { s with response := some a } ∧
    exec (.to16 (DoubleWord.ofField a)) s = .next { s with response := some a }

/-! ### Every operation -/

/-- R84: no operation faults or is refused; each one answers a next state with a response, and that
response is all it changes (R32, the frame of every operation). -/
def Obligations.EveryOperationResponds : Prop :=
  ∀ (i : Instr) (s : State), ∃ v : Field, exec i s = .next { s with response := some v }

/-- R24, R32 and R90: what an operation leaves unchanged. -/
def Obligations.OperationsChangeOnlyTheResponse : Prop :=
  ∀ (i : Instr) (s t : State), exec i s = .next t →
    t.request = s.request ∧ t.refusalMark = s.refusalMark ∧ t.inputs = s.inputs ∧
    t.taken = s.taken ∧ t.response.isSome = true

/-- R28: two units that differ in everything but the request presented next give it the same
response. -/
def Obligations.ResponseDependsOnTheRequestAlone : Prop :=
  ∀ (w : RequestWord) (rest rest' : List HostEvent) (s s' t : State),
    s.inputs = .present w :: rest → s'.inputs = .present w :: rest' → step s = .next t →
    ∃ t' : State, step s' = .next t' ∧ t'.response = t.response ∧ t.response.isSome = true

/-- R32: a repeated request gives the same response and changes nothing but the host's list. -/
def Obligations.RepeatedRequestChangesNothing : Prop :=
  ∀ (w : RequestWord) (rest : List HostEvent) (s t : State),
    s.inputs = .present w :: .present w :: rest → step s = .next t →
    step t = .next { t with inputs := rest }

/-! ### Encoding -/

/-- R53: decoding the encoding of an operation gives it back, with every operand at every value. -/
def Obligations.DecodeOfEncode : Prop :=
  ∀ i : Instr, decode (encode i) = .ok i

/-- R44 and R45: an accepted request word is the encoding of what it decodes to, so no two words
spell one operation and no bit of a word is dropped. -/
def Obligations.EncodeOfDecode : Prop :=
  ∀ (w : RequestWord) (i : Instr), decode w = .ok i → encode i = w

/-- R46, R47, R48 and R87: every request word is an operation or has exactly one refusal reason, and
`OP` and, in format U, `B` decide which. -/
def Obligations.RequestWordsAreClassified : Prop :=
  ∀ w : RequestWord,
    let q := Request.ofWord w
    (decode w = .error .reservedOp ↔
      q.op ∈ [0#4, 7#4, 8#4, 9#4, 10#4, 11#4, 12#4, 13#4, 14#4, 15#4]) ∧
    (decode w = .error .nonzeroUnusedOperand ↔ (q.op = 5#4 ∨ q.op = 6#4) ∧ q.b ≠ 0#16) ∧
    ((∃ i, decode w = .ok i) ↔
      q.op ∈ [1#4, 2#4, 3#4, 4#4] ∨ (q.op = 5#4 ∨ q.op = 6#4) ∧ q.b = 0#16) ∧
    ((∃ i, decode w = .ok i) ↔ q.wellFormed = true)

/-- R48: every request word is an operation or has one of the two refusal reasons, and how many of the 2^36 request words are format D operations, format U operations,
NonzeroUnusedOperand words and ReservedOp words. -/
def Obligations.RequestWordCensus : Prop :=
  (∀ w : RequestWord, (∃ i, decode w = .ok i) ∨ decode w = .error .reservedOp ∨
    decode w = .error .nonzeroUnusedOperand) ∧
  Nat.card { w : RequestWord // ∃ i, decode w = .ok i ∧ i.format = .D } = 4 * 2 ^ 32 ∧
  Nat.card { w : RequestWord // ∃ i, decode w = .ok i ∧ i.format = .U } = 2 * 2 ^ 16 ∧
  Nat.card { w : RequestWord // decode w = .error .nonzeroUnusedOperand } =
    2 * (2 ^ 32 - 2 ^ 16) ∧
  Nat.card { w : RequestWord // decode w = .error .reservedOp } = 10 * 2 ^ 32

/-- The opcode table (R45): a word decodes to a row's operation exactly when it matches the row, and
no word matches two rows. -/
def Obligations.OpcodeTableAgreesWithDecoder : Prop :=
  (∀ r ∈ opcodeTable, ∀ w : RequestWord,
    r.matchesWord w = true ↔ ∃ i, decode w = .ok i ∧ i.opcode = r.opcode) ∧
  (∀ w : RequestWord, (opcodeTable.filter fun r => r.matchesWord w).length ≤ 1)

/-- R45: request words written out from the table, one of each operation. -/
def Obligations.WrittenWordsDecode : Prop :=
  decode 0x1FFFF0001#36 = .ok (.cmp ⟨0xFF#8, 0xFF#8⟩ ⟨0x00#8, 0x01#8⟩) ∧
  decode 0x27FFF0001#36 = .ok (.add ⟨0x7F#8, 0xFF#8⟩ ⟨0x00#8, 0x01#8⟩) ∧
  decode 0x312345678#36 = .ok (.sub ⟨0x12#8, 0x34#8⟩ ⟨0x56#8, 0x78#8⟩) ∧
  decode 0x400FF00FF#36 = .ok (.mul ⟨0x00#8, 0xFF#8⟩ ⟨0x00#8, 0xFF#8⟩) ∧
  decode 0x501000000#36 = .ok (.from16 0x0100#16) ∧
  decode 0x6FE010000#36 = .ok (.to16 ⟨0xFE#8, 0x01#8⟩)

/-! ### Steps -/

/-- R53, R105: where the host's next action is to present a word that decodes to `i`, the step writes
the request fields, takes the action off the host's list and runs `i`. -/
def Obligations.StepRunsTheDecodedRequest : Prop :=
  ∀ (w : RequestWord) (rest : List HostEvent) (i : Instr) (s : State),
    s.inputs = .present w :: rest → decode w = .ok i →
    step s = exec i { s with inputs := rest, request := some (Request.ofWord w) }

/-- The instruction whose bits `withFetchWord` places is the one the next step runs (log entries 11
and 12: the model's choice of how a program comes to run). -/
def Obligations.PlacedWordRunsNext : Prop :=
  ∀ (nbits w : Nat) (i : Instr) (s : State), decodeTableWord nbits w = some i →
    step (s.withFetchWord nbits w) =
      exec i { s with request := some (Request.ofWord (BitVec.ofNat 36 (w % 2 ^ nbits))) }

/-- R86: a refused request gives no response, keeps `R`, sets the mark and changes nothing else, and
the unit then takes the next request normally: the same operation runs, from the state the refusal
leaves, and the mark stays. That the stop is the `refused` outcome with the state left by the
refusal inside it is the model's choice (log entry 4). -/
def Obligations.RefusedRequestOnlySetsTheMark : Prop :=
  ∀ (w : RequestWord) (reason : RefusalReason) (rest : List HostEvent) (s : State),
    s.inputs = .present w :: rest → decode w = .error reason →
    ∃ after : State, step s = .refused (.requestRefused reason after) ∧
      after.response = s.response ∧ after.refusalMark = true ∧ after.inputs = rest ∧
      after.taken = s.taken ∧ after.request = some (Request.ofWord w) ∧
      ∀ (w' : RequestWord) (i : Instr) (rest' : List HostEvent),
        rest = .present w' :: rest' → decode w' = .ok i →
        ∃ t : State, step after = .next t ∧ t.response = responseAlone i ∧ t.refusalMark = true

/-- R46 and R47: the words that spell no operation are refused with their reasons. -/
def Obligations.UnassignedWordsAreRefused : Prop :=
  ∀ (w : RequestWord) (rest : List HostEvent) (s : State), s.inputs = .present w :: rest →
    let q := Request.ofWord w
    (q.op = 0#4 ∨ 7 ≤ q.op.toNat →
      ∃ after : State, step s = .refused (.requestRefused .reservedOp after)) ∧
    ((q.op = 5#4 ∨ q.op = 6#4) → q.b ≠ 0#16 →
      ∃ after : State, step s = .refused (.requestRefused .nonzeroUnusedOperand after))

/-- R86 and R100: a step that goes on sets the mark never, and clears it only by reset. -/
def Obligations.MarkIsClearedByResetAlone : Prop :=
  ∀ s t : State, step s = .next t →
    (s.inputs.head? ≠ some .reset → t.refusalMark = s.refusalMark) ∧
    (s.inputs.head? = some .reset → t.refusalMark = false)

/-- R24: an accepted request writes `R`, and nothing else but reset changes it, a refused request
included; before the first accepted request after reset `R` holds no value. -/
def Obligations.ResponseHoldsUntilNextRequest : Prop :=
  State.reset.response = none ∧
  (∀ (w : RequestWord) (rest : List HostEvent) (i : Instr) (s : State),
    s.inputs = .present w :: rest → decode w = .ok i →
    ∃ t : State, step s = .next t ∧ t.response = responseAlone i ∧ t.response.isSome = true) ∧
  (∀ s t : State, step s = .next t → t.response ≠ s.response →
    s.inputs.head? = some .reset ∧ t.response = none ∨
    ∃ w : RequestWord, s.inputs.head? = some (.present w) ∧ accepted w = true) ∧
  (∀ (s after : State) (reason : RefusalReason),
    step s = .refused (.requestRefused reason after) → after.response = s.response)

/-- R99: `R` holds no value after reset, a host's read of it is then a fault, and that stays so until
an accepted request writes `R`. -/
def Obligations.ReadBeforeResponseFaults : Prop :=
  State.reset.response = none ∧
  (∀ (rest : List HostEvent) (s : State), s.inputs = .reset :: rest →
    ∃ t : State, step s = .next t ∧ t.response = none) ∧
  (∀ (rest : List HostEvent) (s : State), s.inputs = .readResponse :: rest → s.response = none →
    ∃ after : State, step s = .fault (.responseUnwritten after)) ∧
  (∀ s t : State, step s = .next t → s.response = none → t.response ≠ none →
    ∃ w : RequestWord, s.inputs.head? = some (.present w) ∧ accepted w = true)

/-- A host's read gives it the value `R` holds and changes nothing of the unit; where `R` holds none,
the fault leaves the unit as it was (R24, R99). The list of takings and the state inside the fault
are the model's choice (log entries 5 and 6). -/
def Obligations.HostReadTakesTheResponse : Prop :=
  (∀ (rest : List HostEvent) (v : Field) (s : State), s.inputs = .readResponse :: rest →
    s.response = some v → step s = .next { s with inputs := rest, taken := s.taken ++ [v] }) ∧
  (∀ (rest : List HostEvent) (s : State), s.inputs = .readResponse :: rest → s.response = none →
    step s = .fault (.responseUnwritten { s with inputs := rest }))

/-- R99, R100 and R101: whatever the unit held (a request without its response included), reset
leaves `R` without a value and the mark clear. That it takes the value from the request fields too is
the model's reading of R21's reset column (log entry 14, DEDUCED); that the host's list and its
takings stay is the model's choice (log entries 1 and 6). -/
def Obligations.ResetLeavesNoValue : Prop :=
  ∀ (rest : List HostEvent) (s : State), s.inputs = .reset :: rest →
    step s = .next { State.reset with inputs := rest, taken := s.taken }

/-- R98: with nothing presented the unit holds `R`, and everything else. That a step without an
action of the host is a step that changes nothing is the model's choice (log entry 7). -/
def Obligations.IdleUnitHolds : Prop :=
  ∀ s : State, s.inputs = [] → step s = .next s

/-! ### Runs -/

/-- R102: while the host presents only accepted words and reads `R` only after a response, the
machine never stops and stays so: the host's duties are an invariant of every step, and they are
enough. The list of the host's actions is the model's (log entry 1). -/
def Obligations.DutifulHostNeverStops : Prop :=
  ∀ s : State, s.safe = true → ∃ t : State, step s = .next t ∧ t.safe = true

/-- The unit right after reset is safe for every host that keeps its duties (R100, R102). -/
def Obligations.ResetIsSafe : Prop :=
  State.reset.safe = true ∧
  ∀ es : List HostEvent, dutifulFrom false es = true →
    ({ State.reset with inputs := es } : State).safe = true

/-- R35: however many operations the host presents, taking each response, it takes their responses
in the order it presented them, each the response that operation gets alone. The lists of the host's
actions and of its takings are the model's (log entries 1 and 6). -/
def Obligations.ResponsesComeInRequestOrder : Prop :=
  ∀ (ops : List Instr) (rest : List HostEvent) (s : State),
    s.inputs = ops.flatMap (fun i => [.present (encode i), .readResponse]) ++ rest →
    ∃ t : State, Sys2Proof.core.run (2 * ops.length) s = .next t ∧ t.inputs = rest ∧
      t.refusalMark = s.refusalMark ∧
      (t.taken.map some = s.taken.map some ++ ops.map responseAlone)

/-- R96: the units of a platform share no state: a step of one leaves the others as they were, and
is the step that unit takes alone. Which unit steps is an argument, the model's choice (log entry
10). -/
def Obligations.PlatformUnitsAreIndependent : Prop :=
  ∀ (n : Nat) (k : Fin n) (p p' : Platform n), stepUnit k p = .next p' →
    step p[k] = .next p'[k] ∧ ∀ j : Fin n, j ≠ k → p'[j] = p[j]

/-! ### Assembly notation -/

/-- R52: what each pseudo-instruction responds. -/
def Obligations.PseudoInstructionsRespond : Prop :=
  ∀ (x : Field) (s : State),
    let line := fun m : AsmMnemonic =>
      assembleLine [] ⟨none, m, [.literal (.hex (fieldDigits x))]⟩
    let d := DoubleWord.ofField x
    let zero := DoubleWord.ofField 0x0000#16
    let one := DoubleWord.ofField 0x0001#16
    let sign : Field :=
      if x.toInt < 0 then 0xFFFF#16 else if x.toInt = 0 then 0x0000#16 else 0x0001#16
    (line .neg = .ok (.sub zero d) ∧
      exec (.sub zero d) s = .next { s with response := some (wrap 16 (-x.toInt)) }) ∧
    (line .inc = .ok (.add d one) ∧
      exec (.add d one) s = .next { s with response := some (wrap 16 (x.toInt + 1)) }) ∧
    (line .dec = .ok (.sub d one) ∧
      exec (.sub d one) s = .next { s with response := some (wrap 16 (x.toInt - 1)) }) ∧
    (line .sqr = .ok (.mul d d) ∧
      exec (.mul d d) s = .next { s with response := some (wrap 16 (x.toInt * x.toInt)) }) ∧
    (line .sgn = .ok (.cmp d zero) ∧
      exec (.cmp d zero) s = .next { s with response := some sign })

/-- R51: the two forms of a literal, that any other is an assembly error, and that a disassembled
operand is four hexadecimal digits. -/
def Obligations.LiteralsAssemble : Prop :=
  (∀ v : Field, literalField (.hex (fieldDigits v)) = .ok v) ∧
  (∀ n : Int, -32768 ≤ n → n ≤ 32767 →
    ∃ v : Field, literalField (.dec n) = .ok v ∧ v = wrap 16 n ∧ v.toInt = n) ∧
  (∀ n : Int, n < -32768 ∨ 32767 < n → literalField (.dec n) = .error .badLiteral) ∧
  (∀ digits : List Nibble, 1 ≤ digits.length → digits.length ≤ 4 →
    ∃ v : Field, literalField (.hex digits) = .ok v ∧ v.toNat = digitsValue digits) ∧
  (∀ digits : List Nibble, digits.length = 0 ∨ 4 < digits.length →
    literalField (.hex digits) = .error .badLiteral) ∧
  (∀ (i : Instr) (o : AsmOperand), o ∈ (disassembleInstr i).operands →
    ∃ v : Field, o = .literal (.hex (fieldDigits v)) ∧ (fieldDigits v).length = 4)

/-- R50 and R51: what the disassembler prints for an operation assembles to that operation. -/
def Obligations.DisassemblyAssembles : Prop :=
  ∀ (env : HostEnv) (i : Instr),
    parseLine (instrText i) = some (disassembleInstr i) ∧ assembleText env (instrText i) = .ok i

/-- R50 and R51: a line whose names are all bound assembles exactly when it has its mnemonic's number
of operands and every literal is one R51 admits; it then assembles to one request. -/
def Obligations.WellFormedLinesAssemble : Prop :=
  ∀ (env : HostEnv) (l : AsmLine),
    (∀ n, AsmOperand.name n ∈ l.operands → (lookupName n env).isSome = true) →
    ((∃ i, assembleLine env l = .ok i) ↔ l.wellFormed = true)
end

