-- ==== Sys2Proof/Laws/State.lean ====
section
/-!
SUPPORT. One lemma per field per update of the state, each true by `rfl`, so that no later proof
unfolds a record update.
-/

namespace Sys2Proof.Machine

@[simp] theorem writeResponse_request (v : Field) (s : State) :
    (writeResponse v s).request = s.request := rfl
@[simp] theorem writeResponse_response (v : Field) (s : State) :
    (writeResponse v s).response = some v := rfl
@[simp] theorem writeResponse_refusalMark (v : Field) (s : State) :
    (writeResponse v s).refusalMark = s.refusalMark := rfl
@[simp] theorem writeResponse_inputs (v : Field) (s : State) :
    (writeResponse v s).inputs = s.inputs := rfl
@[simp] theorem writeResponse_taken (v : Field) (s : State) :
    (writeResponse v s).taken = s.taken := rfl

@[simp] theorem presentRequest_request (w : RequestWord) (s : State) :
    (presentRequest w s).request = some (Request.ofWord w) := rfl
@[simp] theorem presentRequest_response (w : RequestWord) (s : State) :
    (presentRequest w s).response = s.response := rfl
@[simp] theorem presentRequest_refusalMark (w : RequestWord) (s : State) :
    (presentRequest w s).refusalMark = s.refusalMark := rfl
@[simp] theorem presentRequest_inputs (w : RequestWord) (s : State) :
    (presentRequest w s).inputs = s.inputs := rfl
@[simp] theorem presentRequest_taken (w : RequestWord) (s : State) :
    (presentRequest w s).taken = s.taken := rfl

@[simp] theorem setRefusalMark_request (s : State) : (setRefusalMark s).request = s.request := rfl
@[simp] theorem setRefusalMark_response (s : State) : (setRefusalMark s).response = s.response := rfl
@[simp] theorem setRefusalMark_refusalMark (s : State) : (setRefusalMark s).refusalMark = true := rfl
@[simp] theorem setRefusalMark_inputs (s : State) : (setRefusalMark s).inputs = s.inputs := rfl
@[simp] theorem setRefusalMark_taken (s : State) : (setRefusalMark s).taken = s.taken := rfl

@[simp] theorem resetUnit_request (s : State) : (resetUnit s).request = none := rfl
@[simp] theorem resetUnit_response (s : State) : (resetUnit s).response = none := rfl
@[simp] theorem resetUnit_refusalMark (s : State) : (resetUnit s).refusalMark = false := rfl
@[simp] theorem resetUnit_inputs (s : State) : (resetUnit s).inputs = s.inputs := rfl
@[simp] theorem resetUnit_taken (s : State) : (resetUnit s).taken = s.taken := rfl

@[simp] theorem presentNext_request (w : RequestWord) (s : State) :
    (presentNext w s).request = s.request := rfl
@[simp] theorem presentNext_response (w : RequestWord) (s : State) :
    (presentNext w s).response = s.response := rfl
@[simp] theorem presentNext_refusalMark (w : RequestWord) (s : State) :
    (presentNext w s).refusalMark = s.refusalMark := rfl
@[simp] theorem presentNext_inputs (w : RequestWord) (s : State) :
    (presentNext w s).inputs = .present w :: s.inputs := rfl
@[simp] theorem presentNext_taken (w : RequestWord) (s : State) :
    (presentNext w s).taken = s.taken := rfl

@[simp] theorem reset_request : State.reset.request = none := rfl
@[simp] theorem reset_response : State.reset.response = none := rfl
@[simp] theorem reset_refusalMark : State.reset.refusalMark = false := rfl
@[simp] theorem reset_inputs : State.reset.inputs = [] := rfl
@[simp] theorem reset_taken : State.reset.taken = [] := rfl

end Sys2Proof.Machine
end

