-- ==== Sys2Proof/Laws/Exec.lean ====
section
/-!
SUPPORT. What the shared operations and a step can do, said once. Later proofs cite these instead of
unfolding the definitions.
-/

namespace Sys2Proof.Machine

@[simp] theorem respond_eq_next (v : Field) (s : State) : respond v s = .next (writeResponse v s) := rfl

/-- A refusal names its reason and leaves the state with the mark set. -/
theorem refuse_eq (reason : RefusalReason) (s : State) :
    refuse reason s = .refused (.requestRefused reason (setRefusalMark s)) := rfl

/-- The two cases of a host's read. -/
theorem readResponse_cases (s : State) :
    (∃ v, s.response = some v ∧ readResponse s = .next { s with taken := s.taken ++ [v] }) ∨
    (s.response = none ∧ readResponse s = .fault (.responseUnwritten s)) := by
  unfold readResponse
  cases h : s.response with
  | none => exact .inr ⟨rfl, rfl⟩
  | some v => exact .inl ⟨v, rfl, rfl⟩

/-- An instruction writes one value into `R`, the same in every state, and does nothing else. -/
theorem exec_writes_response (i : Instr) : ∃ v, ∀ s, exec i s = .next (writeResponse v s) := by
  cases i with
  | cmp a b => exact ⟨_, fun _ => rfl⟩
  | add a b => exact ⟨_, fun _ => rfl⟩
  | sub a b => exact ⟨_, fun _ => rfl⟩
  | mul a b => exact ⟨_, fun _ => rfl⟩
  | from16 n => exact ⟨_, fun _ => rfl⟩
  | to16 d => exact ⟨_, fun _ => rfl⟩

/-- The two cases of a presented request. -/
theorem present_cases (w : RequestWord) (s : State) :
    (∃ i, decode w = .ok i ∧ handleEvent (.present w) s = exec i (presentRequest w s)) ∨
    (∃ reason, decode w = .error reason ∧
      handleEvent (.present w) s = refuse reason (presentRequest w s)) := by
  simp only [handleEvent, runRequest, presentRequest_request]
  cases h : decode w with
  | ok i => exact .inl ⟨i, rfl, by rw [show decodeRequest (Request.ofWord w) = .ok i from h]⟩
  | error r => exact .inr ⟨r, rfl, by rw [show decodeRequest (Request.ofWord w) = .error r from h]⟩

/-- Everything a step that goes on can do: stay idle, write the response of an accepted request,
give `R` to the host, or reset the unit. -/
theorem step_next_cases {s t : State} (h : step s = .next t) :
    (s.inputs = [] ∧ t = s) ∨
    (∃ w rest i v, s.inputs = .present w :: rest ∧ decode w = .ok i ∧
      (∀ r, exec i r = .next (writeResponse v r)) ∧
      t = writeResponse v (presentRequest w { s with inputs := rest })) ∨
    (∃ rest v, s.inputs = .readResponse :: rest ∧ s.response = some v ∧
      t = { s with inputs := rest, taken := s.taken ++ [v] }) ∨
    (∃ rest, s.inputs = .reset :: rest ∧ t = resetUnit { s with inputs := rest }) := by
  unfold step advance at h
  split at h
  · next hi => exact .inl ⟨hi, by cases h; rfl⟩
  · next e rest hi =>
    right
    cases e with
    | present w =>
      left
      rcases present_cases w { s with inputs := rest } with ⟨i, hd, he⟩ | ⟨r, -, he⟩
      · obtain ⟨v, hv⟩ := exec_writes_response i
        rw [he, hv] at h
        exact ⟨w, rest, i, v, hi, hd, hv, by cases h; rfl⟩
      · rw [he, refuse_eq] at h
        cases h
    | readResponse =>
      right; left
      rcases readResponse_cases { s with inputs := rest } with ⟨v, hv, he⟩ | ⟨-, he⟩
      · rw [show handleEvent .readResponse { s with inputs := rest } = _ from he] at h
        exact ⟨rest, v, hi, hv, by cases h; rfl⟩
      · rw [show handleEvent .readResponse { s with inputs := rest } = _ from he] at h
        cases h
    | reset =>
      right; right
      exact ⟨rest, hi, by cases h; rfl⟩

end Sys2Proof.Machine
end

