-- ==== Sys2Proof/Laws/Fields.lean ====
section
/-!
SUPPORT. The numbers that assembled and split bit vectors have: one lemma per function, so that
proofs over fields end in `omega`.
-/

namespace Sys2Proof

/-- The unsigned value of a concatenation. -/
theorem toNat_append_eq {m n : Nat} (x : BitVec m) (y : BitVec n) :
    (x ++ y).toNat = x.toNat * 2 ^ n + y.toNat := by
  rw [BitVec.toNat_append, Nat.shiftLeft_eq, Nat.mul_comm, Nat.two_pow_add_eq_or_of_lt y.isLt]

theorem bits_toNat (d : DoubleWord) : d.bits.toNat = d.hi.toNat * 256 + d.lo.toNat :=
  toNat_append_eq d.hi d.lo

@[simp] theorem ofField_hi_toNat (f : Field) : (DoubleWord.ofField f).hi.toNat = f.toNat / 256 := by
  have := f.isLt
  simp [DoubleWord.ofField, BitVec.extractLsb'_toNat, Nat.shiftRight_eq_div_pow]
  omega

@[simp] theorem ofField_lo_toNat (f : Field) : (DoubleWord.ofField f).lo.toNat = f.toNat % 256 := by
  simp [DoubleWord.ofField, BitVec.extractLsb'_toNat]

theorem word_toNat (q : Request) :
    q.word.toNat = q.op.toNat * 2 ^ 32 + q.a.toNat * 2 ^ 16 + q.b.toNat := by
  have h : q.word.toNat = (q.op ++ q.a).toNat * 2 ^ 16 + q.b.toNat := toNat_append_eq _ _
  rw [h, toNat_append_eq]
  omega

@[simp] theorem ofWord_op_toNat (w : RequestWord) : (Request.ofWord w).op.toNat = w.toNat / 2 ^ 32 := by
  have := w.isLt
  simp [Request.ofWord, BitVec.extractLsb'_toNat, Nat.shiftRight_eq_div_pow]
  omega

@[simp] theorem ofWord_a_toNat (w : RequestWord) :
    (Request.ofWord w).a.toNat = w.toNat / 2 ^ 16 % 2 ^ 16 := by
  simp [Request.ofWord, BitVec.extractLsb'_toNat, Nat.shiftRight_eq_div_pow]

@[simp] theorem ofWord_b_toNat (w : RequestWord) : (Request.ofWord w).b.toNat = w.toNat % 2 ^ 16 := by
  simp [Request.ofWord, BitVec.extractLsb'_toNat]

namespace Machine

theorem hiNibble_toNat (w : Word) : (hiNibble w).toNat = w.toNat / 16 := by
  have := w.isLt
  simp [hiNibble, BitVec.extractLsb'_toNat, Nat.shiftRight_eq_div_pow]
  omega

theorem loNibble_toNat (w : Word) : (loNibble w).toNat = w.toNat % 16 := by
  simp [loNibble, BitVec.extractLsb'_toNat]

end Machine

end Sys2Proof
end

