-- ==== Sys2Proof/Laws/PerInstr.lean ====
section
/-!
SUPPORT. Statements about every instruction as a term, one lemma per constructor.
-/

namespace Sys2Proof.Laws

/-- The request an operation is encoded as is one a host may present: its code is assigned and, in
format U, its unused operand is zero (30_encoding.md rules R45 and R47). -/
def EncodingShape.Statement (i : Instr) : Prop :=
  (encodeRequest i).wellFormed = true ∧ (i.format = .U → (encodeRequest i).b = 0#16)

theorem EncodingShape.cmp (a b : DoubleWord) : EncodingShape.Statement (.cmp a b) :=
  ⟨rfl, fun h => by cases h⟩

theorem EncodingShape.add (a b : DoubleWord) : EncodingShape.Statement (.add a b) :=
  ⟨rfl, fun h => by cases h⟩

theorem EncodingShape.sub (a b : DoubleWord) : EncodingShape.Statement (.sub a b) :=
  ⟨rfl, fun h => by cases h⟩

theorem EncodingShape.mul (a b : DoubleWord) : EncodingShape.Statement (.mul a b) :=
  ⟨rfl, fun h => by cases h⟩

theorem EncodingShape.from16 (n : Native) : EncodingShape.Statement (.from16 n) :=
  ⟨rfl, fun _ => rfl⟩

theorem EncodingShape.to16 (d : DoubleWord) : EncodingShape.Statement (.to16 d) :=
  ⟨rfl, fun _ => rfl⟩

end Sys2Proof.Laws
end

