-- ==== Sys2Proof/Laws/Run.lean ====
section
/-!
SUPPORT. How a run of steps unfolds by its first step.
-/

namespace Sys2Proof.Machine

theorem run_zero (s : State) : Sys2Proof.core.run 0 s = .next s := rfl

theorem run_succ_of_next {k : Nat} {s t : State} (h : step s = .next t) :
    Sys2Proof.core.run (k + 1) s = Sys2Proof.core.run k t := by
  have e : Sys2Proof.core.step s = Host.Outcome.next (σ := Sys2Proof.core.State) t := h
  simp only [Host.Core.run, e]

theorem run_succ_of_fault {k : Nat} {s : State} {r : Fault} (h : step s = .fault r) :
    Sys2Proof.core.run (k + 1) s = .fault r := by
  have e : Sys2Proof.core.step s = Host.Outcome.fault (φ := Sys2Proof.core.Fault) r := h
  simp only [Host.Core.run, e]

theorem run_succ_of_refused {k : Nat} {s : State} {r : Refusal} (h : step s = .refused r) :
    Sys2Proof.core.run (k + 1) s = .refused r := by
  have e : Sys2Proof.core.step s = Host.Outcome.refused (ρ := Sys2Proof.core.Refusal) r := h
  simp only [Host.Core.run, e]

end Sys2Proof.Machine
end

