-- ==== Sys2Proof/Tests/Slice0.lean ====
section
/-!
SUPPORT. Small tests and witnesses. Expected values are from spec/95_test_vectors.md or from the rule a
test names, never from the model. A witness shows a concrete state and operands that meet the
hypotheses of one statement of Certificates/Slice0/Obligations.lean together, at a boundary value
for each of its clauses.
-/

namespace Sys2Proof.Tests

open Sys2Proof.Machine

/-- The unit after reset, with a host that will do `es`. -/
def unitWith (es : List HostEvent) : State :=
  { State.reset with inputs := es }

/-- The unit after a response of `v`, with a host that will do `es`. -/
def unitHolding (v : Field) (es : List HostEvent) : State :=
  { State.reset with response := some v, inputs := es }

/-- What `R` holds after an outcome; nothing after a stop. -/
def answered (o : Host.Outcome State Fault Refusal) : Option Field :=
  match o with
  | .next t => t.response
  | .fault _ => none
  | .refused _ => none

/-- The response to a request word presented to the unit after reset. -/
def responseTo (w : RequestWord) : Option Field :=
  answered (step (unitWith [.present w]))

/-! ### WellFormed: an ill-formed term for each check -/

theorem test_request_reserved_op_refused : (Request.mk 7#4 0#16 0#16).opAssigned = false := by decide
theorem test_request_zero_op_ill_formed : (Request.mk 0#4 0#16 0#16).wellFormed = false := by decide
theorem test_request_nonzero_unused_refused :
    (Request.mk 5#4 0x0100#16 1#16).unusedZero = false ∧
    (Request.mk 6#4 0x1234#16 0x8000#16).wellFormed = false := by decide
theorem test_request_well_formed : (Request.mk 6#4 0x1234#16 0#16).wellFormed = true := by decide
theorem test_literal_no_digit_ill_formed : (AsmLiteral.hex []).wellFormed = false := by decide
theorem test_literal_five_digits_ill_formed :
    (AsmLiteral.hex [0#4, 1#4, 2#4, 3#4, 4#4]).wellFormed = false := by decide
theorem test_literal_decimal_range :
    (AsmLiteral.dec 32768).wellFormed = false ∧ (AsmLiteral.dec (-32769)).wellFormed = false ∧
    (AsmLiteral.dec 32767).wellFormed = true ∧ (AsmLiteral.dec (-32768)).wellFormed = true := by decide
theorem test_operand_ill_formed : (AsmOperand.literal (.dec 40000)).wellFormed = false := by decide
theorem test_line_operand_count_ill_formed :
    (AsmLine.mk none .to16 [.literal (.dec 1), .literal (.dec 2)]).wellFormed = false := by decide

/-! ### Decode: words written out bit by bit from R40 and R45 -/

theorem test_decode_cmp : decode 0b000111111111111111110000000000000001#36 =
    .ok (.cmp ⟨0xFF#8, 0xFF#8⟩ ⟨0x00#8, 0x01#8⟩) := rfl
theorem test_decode_add : decode 0b001001111111111111110000000000000001#36 =
    .ok (.add ⟨0x7F#8, 0xFF#8⟩ ⟨0x00#8, 0x01#8⟩) := rfl
theorem test_decode_sub : decode 0b001100010010001101000101011001111000#36 =
    .ok (.sub ⟨0x12#8, 0x34#8⟩ ⟨0x56#8, 0x78#8⟩) := rfl
theorem test_decode_mul : decode 0b010010101011110011011110111100000001#36 =
    .ok (.mul ⟨0xAB#8, 0xCD#8⟩ ⟨0xEF#8, 0x01#8⟩) := rfl
theorem test_decode_from16 : decode 0b010100000001000000000000000000000000#36 =
    .ok (.from16 0x0100#16) := rfl
theorem test_decode_to16 : decode 0b011011111110000000010000000000000000#36 =
    .ok (.to16 ⟨0xFE#8, 0x01#8⟩) := rfl

/-- 95_test_vectors.md 2.7. -/
theorem test_decode_reserved :
    decode 0x000000000#36 = .error .reservedOp ∧ decode 0x700010002#36 = .error .reservedOp ∧
    decode 0xFFFFFFFFF#36 = .error .reservedOp := ⟨rfl, rfl, rfl⟩
theorem test_decode_nonzero_unused :
    decode 0x501000001#36 = .error .nonzeroUnusedOperand ∧
    decode 0x612348000#36 = .error .nonzeroUnusedOperand := ⟨rfl, rfl⟩

theorem test_decode_table_word :
    decodeTableWord 40 0x27FFF0001 = some (.add ⟨0x7F#8, 0xFF#8⟩ ⟨0x00#8, 0x01#8⟩) := rfl
theorem test_decode_table_word_too_wide : decodeTableWord 40 0x1027FFF0001 =
    decodeTableWord 40 0x027FFF0001 ∧ decodeTableWord 40 0x1227FFF0001 = none := ⟨rfl, rfl⟩

/-! ### Word layer (95_test_vectors.md 2.1) -/

theorem test_nibbles : hiNibble 0xE1#8 = 0xE#4 ∧ loNibble 0xE1#8 = 0x1#4 ∧
    hiNibble 0x80#8 = 0x8#4 ∧ loNibble 0x80#8 = 0x0#4 := by decide
theorem test_nibble_add_carry : nibbleAddCarry 0x9#4 0x7#4 0x02#8 = (0x0#4, 0x03#8) ∧
    nibbleAddCarry 0xF#4 0xF#4 0x00#8 = (0xE#4, 0x01#8) := by decide
theorem test_nibble_add_carry_wraps : nibbleAddCarry 0xF#4 0x1#4 0xFF#8 = (0x0#4, 0x00#8) ∧
    nibbleAddCarry 0x7#4 0x8#4 0x00#8 = (0xF#4, 0x00#8) := by decide
theorem test_nibble_add : nibbleAdd 0xC#4 0x7#4 = 0x3#4 ∧ nibbleAdd 0xF#4 0xF#4 = 0xE#4 := by decide
theorem test_word_add_carry : wordAddCarry 0xFF#8 0x01#8 0x03#8 = (0x00#8, 0x04#8) ∧
    wordAddCarry 0xFF#8 0x00#8 0x00#8 = (0xFF#8, 0x00#8) := by decide
theorem test_word_add_carry_wraps : wordAddCarry 0xFF#8 0x01#8 0xFF#8 = (0x00#8, 0x00#8) := by decide
theorem test_word_sub_borrow : wordSubBorrow 0x00#8 0x01#8 0x02#8 = (0xFF#8, 0x03#8) ∧
    wordSubBorrow 0x34#8 0x78#8 0x00#8 = (0xBC#8, 0x01#8) := by decide

/-! ### The operations (95_test_vectors.md 2.2 to 2.6), each by its request word -/

theorem test_cmp_hi_signed : responseTo 0x180007FFF#36 = some 0xFFFF#16 ∧
    responseTo 0x10000FFFF#36 = some 0x0001#16 := by decide
theorem test_cmp_lo_unsigned : responseTo 0x10080007F#36 = some 0x0001#16 ∧
    responseTo 0x1FF7FFF80#36 = some 0xFFFF#16 ∧ responseTo 0x112341234#36 = some 0x0000#16 := by decide
theorem test_add_wraps : responseTo 0x27FFF0001#36 = some 0x8000#16 ∧
    responseTo 0x28000FFFF#36 = some 0x7FFF#16 := by decide
theorem test_add_carries : responseTo 0x200FF00FF#36 = some 0x01FE#16 ∧
    responseTo 0x212345678#36 = some 0x68AC#16 := by decide
theorem test_sub_wraps : responseTo 0x380000001#36 = some 0x7FFF#16 ∧
    responseTo 0x300008000#36 = some 0x8000#16 := by decide
theorem test_sub_borrows : responseTo 0x301000001#36 = some 0x00FF#16 ∧
    responseTo 0x312345678#36 = some 0xBBBC#16 := by decide
theorem test_mul_source_scenarios : responseTo 0x400FF00FF#36 = some 0xFE01#16 ∧
    responseTo 0x48000FFFF#36 = some 0x8000#16 ∧ responseTo 0x47FFF7FFF#36 = some 0x0001#16 := by decide
theorem test_mul_placement : responseTo 0x401000001#36 = some 0x0100#16 ∧
    responseTo 0x412345678#36 = some 0x0060#16 ∧ responseTo 0x4ABCDEF01#36 = some 0x0ECD#16 := by decide
theorem test_from16 : responseTo 0x5FF7F0000#36 = some 0xFF7F#16 ∧
    fromInt16 0xFF7F#16 = ⟨BitVec.ofInt 8 (-1), 127#8⟩ := by decide
theorem test_from16_minimum : fromInt16 0x8000#16 = minDw ∧ fromInt16 0x7FFF#16 = maxDw := by decide
theorem test_to16 : responseTo 0x6FE010000#36 = some 0xFE01#16 ∧
    (toInt16 ⟨0xFE#8, 0x01#8⟩).toInt = -511 := by decide
theorem test_to16_source_minimum_literal : dwValue ⟨BitVec.ofInt 8 (-128), 255#8⟩ = -32513 := by decide

/-- Trace T2 of 95_test_vectors.md: all nibbles `0xF`, `c2 = 1`, `c3 = 2`. -/
theorem test_mul_carries :
    mulPosition1 (partialProducts (operandNibbles ⟨0xFF#8, 0xFF#8⟩ ⟨0xFF#8, 0xFF#8⟩)) = (0#4, 1#8) ∧
    mulPosition2 (partialProducts (operandNibbles ⟨0xFF#8, 0xFF#8⟩ ⟨0xFF#8, 0xFF#8⟩)) =
      (0#4, 2#8) := by decide

/-! ### Refusal, reset and the host's read (95_test_vectors.md 2.7, 2.8 and P4) -/

theorem test_refused_request : step (unitHolding 2#16 [.present 0x500050001#36]) =
    .refused (.requestRefused .nonzeroUnusedOperand
      ⟨some ⟨5#4, 5#16, 1#16⟩, some 2#16, true, [], []⟩) := rfl
theorem test_read_after_reset_faults : step (unitWith [.readResponse]) =
    .fault (.responseUnwritten State.reset) := rfl
theorem test_read_takes_response : step (unitHolding 2#16 [.readResponse]) =
    .next { unitHolding 2#16 [] with taken := [2#16] } := rfl
theorem test_reset_event :
    step { unitHolding 2#16 [.reset] with refusalMark := true, request := some ⟨0#4, 0#16, 0#16⟩ } =
    .next State.reset := rfl
theorem test_idle : step State.reset = .next State.reset := rfl

/-! ### Notation -/

theorem test_request_digits : requestDigits 0x27FFF0001#36 =
    [2#4, 7#4, 0xF#4, 0xF#4, 0xF#4, 0#4, 0#4, 0#4, 1#4] := by decide
theorem test_request_text : requestText 0x27FFF0001#36 = "2_7FFF_0001".toList := by decide
theorem test_assemble_dyadic : assembleText [] "CMP 0xFFFF, 0x0001".toList =
    .ok (.cmp ⟨0xFF#8, 0xFF#8⟩ ⟨0x00#8, 0x01#8⟩) := by rfl
theorem test_disassemble : disassemble 0x6FE010000#36 =
    .ok ⟨none, .to16, [.literal (.hex [0xF#4, 0xE#4, 0#4, 1#4])]⟩ := by rfl
theorem test_assemble_name_and_comment :
    assembleText [("f".toList, 0x9D80#16)] "%r = TO16 %f ; 6_9D80_0000".toList =
    .ok (.to16 ⟨0x9D#8, 0x80#8⟩) := by rfl
theorem test_assemble_decimal : assembleText [] "FROM16 -32768".toList = .ok (.from16 0x8000#16) := by rfl
theorem test_assemble_errors :
    assembleText [] "FROM16 32768".toList = .error .badLiteral ∧
    assembleText [] "ADD 1".toList = .error .badOperandCount ∧
    assembleText [] "TO16 %f".toList = .error .unboundName ∧
    assembleText [] "FOO 1".toList = .error .badLine := ⟨rfl, rfl, rfl, rfl⟩
theorem test_neg_minimum :
    assembleText [] "NEG 0x8000".toList = .ok (.sub ⟨0#8, 0#8⟩ ⟨0x80#8, 0#8⟩) := by rfl

/-- The last three lines of program P3 of 95_test_vectors.md, for which the host holds `v`. -/
theorem test_run_lines :
    runLines [⟨some ['y'], .inc, [.name ['v']]⟩, ⟨some ['o'], .to16, [.name ['y']]⟩]
      ⟨[(['v'], 0xD330#16)], State.reset⟩ =
    .ok (.next ⟨[(['o'], 0xD331#16), (['y'], 0xD331#16), (['v'], 0xD330#16)],
      ⟨some ⟨6#4, 0xD331#16, 0#16⟩, some 0xD331#16, false, [], [0xD331#16, 0xD331#16]⟩⟩) := by rfl

/-! ### Witnesses for the hypotheses of the statements -/

theorem witness_CompareAnswersSignedOrder :
    dwValue minDw < dwValue maxDw ∧ dwValue minDw = dwValue ⟨0x80#8, 0#8⟩ ∧
    dwValue ⟨0#8, 0x80#8⟩ > dwValue ⟨0#8, 0x7F#8⟩ := by decide
theorem witness_CompareIsTwoTier :
    (0x80#8 : SignedWord).toInt < (0x7F#8 : SignedWord).toInt ∧
    (0xFE#8 : SignedWord).toInt < (0xFF#8 : SignedWord).toInt ∧
    (0x7F#8 : Word).toNat < (0x80#8 : Word).toNat ∧ (0#8 : Word).toNat < (0xFF#8 : Word).toNat ∧
    (minDw.hi = (DoubleWord.mk 0x80#8 0xFF#8).hi ∧ minDw.lo = (DoubleWord.mk 0x80#8 0#8).lo) := by
  decide
theorem witness_AddCarriesIntoTheHighWord :
    (0xFF#8 : Word).toNat + (0x00#8 : Word).toNat < 256 ∧
    256 ≤ (0xFF#8 : Word).toNat + (0x01#8 : Word).toNat := by decide
theorem witness_SubBorrowsFromTheHighWord :
    (0x05#8 : Word).toNat ≤ (0x05#8 : Word).toNat ∧ (0x00#8 : Word).toNat < (0x01#8 : Word).toNat := by
  decide
theorem witness_CarryPositionIsDivMod :
    (0x0F#8 : Word).toNat < 16 ∧ (List.replicate 255 0xF#4).length < 256 ∧
    [1#4, 2#4].Perm [2#4, 1#4] := ⟨by decide, (List.length_replicate ..).trans_lt (by decide), by decide⟩
theorem witness_OperationsChangeOnlyTheResponse :
    exec (.add maxDw ⟨0#8, 1#8⟩) State.reset = .next (unitHolding 0x8000#16 []) := rfl
theorem witness_ResponseDependsOnTheRequestAlone :
    (unitWith [.present 0x200010001#36]).inputs = .present 0x200010001#36 :: [] ∧
    (unitHolding 7#16 [.present 0x200010001#36, .reset]).inputs =
      .present 0x200010001#36 :: [.reset] ∧
    step (unitWith [.present 0x200010001#36]) =
      .next { unitHolding 2#16 [] with request := some ⟨2#4, 1#16, 1#16⟩ } := ⟨rfl, rfl, rfl⟩
theorem witness_RepeatedRequestChangesNothing :
    (unitWith [.present 0x200010001#36, .present 0x200010001#36]).inputs =
      .present 0x200010001#36 :: .present 0x200010001#36 :: [] ∧
    step (unitWith [.present 0x200010001#36, .present 0x200010001#36]) =
      .next { unitHolding 2#16 [.present 0x200010001#36] with
        request := some ⟨2#4, 1#16, 1#16⟩ } := ⟨rfl, rfl⟩
theorem witness_EncodeOfDecode : decode 0x580000000#36 = .ok (.from16 0x8000#16) := rfl
theorem witness_OpcodeTableAgreesWithDecoder :
    (⟨6#4, 0x600000000#36, 0xF0000FFFF#36⟩ : OpcodeRow) ∈ opcodeTable := by decide
theorem witness_StepRunsTheDecodedRequest :
    (unitWith [.present 0x4FFFFFFFF#36]).inputs = .present 0x4FFFFFFFF#36 :: [] ∧
    decode 0x4FFFFFFFF#36 = .ok (.mul ⟨0xFF#8, 0xFF#8⟩ ⟨0xFF#8, 0xFF#8⟩) := ⟨rfl, rfl⟩
theorem witness_PlacedWordRunsNext :
    decodeTableWord 40 0x6FFFF0000 = some (.to16 ⟨0xFF#8, 0xFF#8⟩) ∧
    step (State.reset.withFetchWord 40 0x6FFFF0000) =
      .next { unitHolding 0xFFFF#16 [] with request := some ⟨6#4, 0xFFFF#16, 0#16⟩ } := ⟨rfl, rfl⟩
theorem witness_RefusedRequestOnlySetsTheMark :
    (unitWith [.present 0x000000000#36, .present 0x200010001#36]).inputs =
      .present 0x000000000#36 :: .present 0x200010001#36 :: [] ∧
    decode 0x000000000#36 = .error .reservedOp ∧
    decode 0x200010001#36 = .ok (.add ⟨0#8, 1#8⟩ ⟨0#8, 1#8⟩) := ⟨rfl, rfl, rfl⟩
theorem witness_UnassignedWordsAreRefused :
    (unitWith [.present 0x7FFFFFFFF#36]).inputs = .present 0x7FFFFFFFF#36 :: [] ∧
    (Request.ofWord 0x0FFFFFFFF#36).op = 0#4 ∧ 7 ≤ (Request.ofWord 0x7FFFFFFFF#36).op.toNat ∧
    7 ≤ (Request.ofWord 0xF00000000#36).op.toNat ∧
    (Request.ofWord 0x500000001#36).op = 5#4 ∧ (Request.ofWord 0x500000001#36).b ≠ 0#16 ∧
    (Request.ofWord 0x60000FFFF#36).op = 6#4 ∧ (Request.ofWord 0x60000FFFF#36).b ≠ 0#16 := by decide
theorem witness_MarkIsClearedByResetAlone :
    step { unitWith [] with refusalMark := true } = .next { unitWith [] with refusalMark := true } ∧
    (unitWith []).inputs.head? ≠ some .reset ∧
    step { unitWith [.reset] with refusalMark := true } = .next State.reset ∧
    (unitWith [.reset]).inputs.head? = some .reset := ⟨rfl, by decide, rfl, rfl⟩
theorem witness_ResponseHoldsUntilNextRequest :
    (unitWith [.present 0x200010001#36]).inputs = .present 0x200010001#36 :: [] ∧
    decode 0x200010001#36 = .ok (.add ⟨0#8, 1#8⟩ ⟨0#8, 1#8⟩) ∧
    step (unitHolding 2#16 [.reset]) = .next State.reset ∧
    State.reset.response ≠ (unitHolding 2#16 [.reset]).response ∧
    step (unitHolding 2#16 [.present 0#36]) = .refused (.requestRefused .reservedOp
      ⟨some ⟨0#4, 0#16, 0#16⟩, some 2#16, true, [], []⟩) := ⟨rfl, rfl, rfl, by decide, rfl⟩
theorem witness_ReadBeforeResponseFaults :
    (unitHolding 2#16 [.reset]).inputs = .reset :: [] ∧
    (unitWith [.readResponse]).inputs = .readResponse :: [] ∧
    (unitWith [.readResponse]).response = none ∧
    step (unitWith [.present 0x200010001#36]) =
      .next { unitHolding 2#16 [] with request := some ⟨2#4, 1#16, 1#16⟩ } ∧
    (unitWith [.present 0x200010001#36]).response = none ∧ (unitHolding 2#16 []).response ≠ none :=
  ⟨rfl, rfl, rfl, rfl, rfl, by decide⟩
theorem witness_HostReadTakesTheResponse :
    (unitHolding 2#16 [.readResponse]).inputs = .readResponse :: [] ∧
    (unitHolding 2#16 [.readResponse]).response = some 2#16 ∧
    (unitWith [.readResponse]).response = none := ⟨rfl, rfl, rfl⟩
theorem witness_ResetLeavesNoValue :
    (unitHolding 2#16 [.reset, .readResponse]).inputs = .reset :: [.readResponse] := rfl
theorem witness_IdleUnitHolds : (unitHolding 2#16 []).inputs = [] := rfl
theorem witness_DutifulHostNeverStops :
    (unitHolding 2#16 [.readResponse, .reset, .present 0x6FFFF0000#36, .readResponse]).safe = true := by
  decide
theorem witness_ResetIsSafe : dutifulFrom false [.present 0x6FFFF0000#36, .readResponse] = true := by
  decide
theorem witness_ResponsesComeInRequestOrder :
    (unitWith [.present 0x5FFFF0000#36, .readResponse, .present 0x600010000#36, .readResponse,
      .reset]).inputs =
    [Instr.from16 0xFFFF#16, Instr.to16 ⟨0#8, 1#8⟩].flatMap
      (fun i => [HostEvent.present (encode i), HostEvent.readResponse]) ++ [HostEvent.reset] := by
  decide
theorem witness_PlatformUnitsAreIndependent :
    stepUnit (n := 2) 1 #v[State.reset, unitHolding 2#16 [.reset]] =
      .next #v[State.reset, State.reset] := rfl
theorem witness_LiteralsAssemble :
    (-32768 : Int) ≤ -32768 ∧ (32767 : Int) ≤ 32767 ∧ (-32769 : Int) < -32768 ∧
    (32767 : Int) < 32768 ∧ 1 ≤ [0xF#4].length ∧ [0#4, 1#4, 2#4, 3#4].length ≤ 4 ∧
    ([] : List Nibble).length = 0 ∧ 4 < [0#4, 1#4, 2#4, 3#4, 4#4].length ∧
    AsmOperand.literal (.hex (fieldDigits 1#16)) ∈ (disassembleInstr (.from16 1#16)).operands := by
  decide
theorem witness_WellFormedLinesAssemble :
    (lookupName ['v'] [(['v'], 7#16)]).isSome = true ∧
    (AsmLine.mk none .inc [.name ['v']]).wellFormed = true ∧
    (AsmLine.mk none .inc [.name ['v'], .name ['v']]).wellFormed = false := by decide

end Sys2Proof.Tests
end

/-! ### DoubleWord values

The pattern and the value of a DoubleWord (10_state.md rules R17, R18, R20).
-/

namespace Sys2Proof

/-- R17: `bits(d)[15:8] = d.hi`. -/
@[simp] theorem bits_extract_hi (d : DoubleWord) : d.bits.extractLsb' 8 8 = d.hi :=
  BitVec.extractLsb'_append_eq_left

/-- R17: `bits(d)[7:0] = d.lo`. -/
@[simp] theorem bits_extract_lo (d : DoubleWord) : d.bits.extractLsb' 0 8 = d.lo :=
  BitVec.extractLsb'_append_eq_right

/-- R17: splitting is the left inverse of assembling. -/
@[simp] theorem ofField_bits (d : DoubleWord) : DoubleWord.ofField d.bits = d := by
  simp [DoubleWord.ofField]

/-- R17: splitting is the right inverse of assembling. -/
@[simp] theorem bits_ofField (f : Field) : (DoubleWord.ofField f).bits = f := by
  apply BitVec.eq_of_toNat_eq
  rw [bits_toNat, ofField_hi_toNat, ofField_lo_toNat]
  omega

namespace Machine

/-- R17: `value(d) = 256 * s(hi) + u(lo)`. The two readings of `hi` differ by 256 exactly when the
two readings of the whole pattern differ by 2^16. -/
theorem dwValue_eq (d : DoubleWord) : dwValue d = 256 * d.hi.toInt + d.lo.toNat := by
  have hlo := d.lo.isLt
  rw [dwValue, BitVec.toInt_eq_toNat_cond, BitVec.toInt_eq_toNat_cond, bits_toNat]
  split <;> split <;> omega

theorem dwValue_bounds (d : DoubleWord) : -32768 ≤ dwValue d ∧ dwValue d ≤ 32767 := by
  have hlow := BitVec.le_toInt d.bits
  have hhigh := BitVec.toInt_lt (x := d.bits)
  rw [dwValue]
  omega

/-- R18: the low word is at least 0 and less than the weight 256 of `hi`, so it cannot turn the
sign. -/
theorem dwValue_neg_iff (d : DoubleWord) : dwValue d < 0 ↔ d.hi.toInt < 0 := by
  have hlo := d.lo.isLt
  rw [dwValue_eq]
  omega

/-- R20: `value(MAX_DW) = 32767`. -/
theorem dwValue_maxDw : dwValue maxDw = 32767 := by decide

/-- R20: `value(MIN_DW) = -32768`. -/
theorem dwValue_minDw : dwValue minDw = -32768 := by decide

end Machine

end Sys2Proof

/-! ### Step equations

What a step answers, one equation per action of the host, and the one way in which a step is
refused. Laws/Exec.lean has the inversion of a step that goes on.
-/

namespace Sys2Proof

theorem accepted_iff (w : RequestWord) : accepted w = true ↔ ∃ i, decode w = .ok i := by
  unfold accepted
  cases decode w with
  | ok i => simp
  | error reason => simp

/-- A table word is read as an operation exactly when it fits in a request word that spells it. -/
theorem decodeTableWord_eq_some_iff (nbits w : Nat) (i : Instr) :
    decodeTableWord nbits w = some i ↔
      requestOfTableWord nbits w = some (BitVec.ofNat 36 (w % 2 ^ nbits)) ∧
      decode (BitVec.ofNat 36 (w % 2 ^ nbits)) = .ok i := by
  unfold decodeTableWord requestOfTableWord
  by_cases hfits : w % 2 ^ nbits < 2 ^ 36
  · simp only [if_pos hfits, true_and]
    cases decode (BitVec.ofNat 36 (w % 2 ^ nbits)) with
    | ok j => simp
    | error reason => simp
  · simp only [if_neg hfits, reduceCtorEq, false_and]

namespace Machine

/-- `responseAlone i` is the value `i` writes, in every state (R28, R35). -/
theorem exec_writes_responseAlone (i : Instr) :
    ∃ v, responseAlone i = some v ∧ ∀ s, exec i s = .next (writeResponse v s) := by
  obtain ⟨v, hv⟩ := exec_writes_response i
  exact ⟨v, by simp only [responseAlone, hv, writeResponse_response], hv⟩

section
variable {s : State} {rest : List HostEvent}

/-- The step takes the host's next action off the list and handles it. -/
theorem step_of_cons {e : HostEvent} (h : s.inputs = e :: rest) :
    step s = handleEvent e { s with inputs := rest } := by
  simp only [step, advance, h]

/-- R53, R105: an accepted word runs as the operation it spells. -/
theorem step_present_of_ok {w : RequestWord} {i : Instr} (h : s.inputs = .present w :: rest)
    (hd : decode w = .ok i) : step s = exec i (presentRequest w { s with inputs := rest }) := by
  rcases present_cases w { s with inputs := rest } with ⟨j, hj, he⟩ | ⟨reason, hr, -⟩
  · cases hd.symm.trans hj
    exact (step_of_cons h).trans he
  · cases hd.symm.trans hr

/-- R86: a word that spells no operation is refused with the decoder's reason. -/
theorem step_present_of_error {w : RequestWord} {reason : RefusalReason}
    (h : s.inputs = .present w :: rest) (hd : decode w = .error reason) :
    step s = refuse reason (presentRequest w { s with inputs := rest }) := by
  rcases present_cases w { s with inputs := rest } with ⟨i, hi, -⟩ | ⟨reason', hr, he⟩
  · cases hd.symm.trans hi
  · cases hd.symm.trans hr
    exact (step_of_cons h).trans he

/-- R24: where `R` holds a value, the host's read takes it. -/
theorem step_readResponse_of_some {v : Field} (h : s.inputs = .readResponse :: rest)
    (hv : s.response = some v) :
    step s = .next { s with inputs := rest, taken := s.taken ++ [v] } := by
  simp only [step_of_cons h, handleEvent, readResponse, hv]

/-- R99: where `R` holds no value, the host's read is a fault. -/
theorem step_readResponse_of_none (h : s.inputs = .readResponse :: rest)
    (hv : s.response = none) :
    step s = .fault (.responseUnwritten { s with inputs := rest }) := by
  simp only [step_of_cons h, handleEvent, readResponse, hv]

/-- R99, R100: the host's reset resets the unit. -/
theorem step_reset (h : s.inputs = .reset :: rest) :
    step s = .next (resetUnit { s with inputs := rest }) :=
  step_of_cons h

/-- An accepted word's step answers the state with its response and its request fields written. -/
theorem step_present_writes_responseAlone {w : RequestWord} {i : Instr}
    (h : s.inputs = .present w :: rest) (hd : decode w = .ok i) :
    ∃ v, responseAlone i = some v ∧
      step s = .next (writeResponse v (presentRequest w { s with inputs := rest })) := by
  obtain ⟨v, hv, hexec⟩ := exec_writes_responseAlone i
  exact ⟨v, hv, (step_present_of_ok h hd).trans (hexec _)⟩

/-- A step on a presented word goes on only if the word is accepted (R86). -/
theorem decode_ok_of_step_present_next {w : RequestWord} {t : State}
    (h : s.inputs = .present w :: rest) (hstep : step s = .next t) : ∃ i, decode w = .ok i := by
  cases hd : decode w with
  | ok i => exact ⟨i, rfl⟩
  | error reason =>
    rw [step_present_of_error h hd, refuse_eq] at hstep
    cases hstep

end

/-- A step is refused only by a presented word that spells no operation, and the refusal carries the
state with the request fields written and the mark set (R86). -/
theorem step_refused_cases {s : State} {r : Refusal} (h : step s = .refused r) :
    ∃ w rest reason, s.inputs = .present w :: rest ∧ decode w = .error reason ∧
      r = .requestRefused reason (setRefusalMark (presentRequest w { s with inputs := rest })) := by
  cases hin : s.inputs with
  | nil => simp [step, advance, hin] at h
  | cons e rest =>
    cases e with
    | present w =>
      cases hd : decode w with
      | ok i =>
        obtain ⟨v, -, hstep⟩ := step_present_writes_responseAlone hin hd
        cases hstep.symm.trans h
      | error reason =>
        cases (step_present_of_error hin hd).symm.trans h
        exact ⟨w, rest, reason, rfl, hd, rfl⟩
    | readResponse =>
      cases hv : s.response with
      | some v => cases (step_readResponse_of_some hin hv).symm.trans h
      | none => cases (step_readResponse_of_none hin hv).symm.trans h
    | reset => cases (step_reset hin).symm.trans h

/-- A word placed by `withFetchWord` is the host's next action (log entry 12). -/
theorem withFetchWord_of_some {nbits w : Nat} {word : RequestWord} (s : State)
    (h : requestOfTableWord nbits w = some word) :
    s.withFetchWord nbits w = presentNext word s := by
  simp only [State.withFetchWord, presentTableWord, h]

end Machine

end Sys2Proof

/-! ### Obligations of the state family

The obligations on the value types, the state and its frame (10_state.md).
-/

namespace Sys2Proof.Machine

/-- Settles O1: splitting and assembling are inverse, and the value is the sum of the two words'
values at their weights. -/
theorem doubleWordPatternIsBijection : Obligations.DoubleWordPatternIsBijection := by
  refine ⟨fun d => ?_, ofField_bits, bits_ofField⟩
  obtain ⟨hlow, hhigh⟩ := dwValue_bounds d
  exact ⟨rfl, bits_extract_hi d, bits_extract_lo d, rfl, dwValue_eq d, hlow, hhigh⟩

/-- Settles O2: the low word cannot turn the sign, and the sign of `hi` is its top bit. -/
theorem signIsTheSignOfHi : Obligations.SignIsTheSignOfHi := by
  intro d
  have hmsb : d.hi.toInt < 0 ↔ d.hi.getLsbD 7 = true := by
    rw [← BitVec.msb_eq_getLsbD_last d.hi, BitVec.msb_eq_toInt, decide_eq_true_iff]
  exact ⟨dwValue_neg_iff d, (dwValue_neg_iff d).trans hmsb⟩

/-- Settles O3: the two constants' values are the ends of the signed 16-bit range. -/
theorem boundaryDoubleWordsAreExtreme : Obligations.BoundaryDoubleWordsAreExtreme := by
  refine ⟨by decide, dwValue_maxDw, by decide, dwValue_minDw, fun d => ?_⟩
  rw [dwValue_minDw, dwValue_maxDw]
  exact dwValue_bounds d

/-- Settles O28: every operation is one write of the response. -/
theorem operationsChangeOnlyTheResponse : Obligations.OperationsChangeOnlyTheResponse := by
  intro i s t h
  obtain ⟨v, hv⟩ := exec_writes_response i
  cases (hv s).symm.trans h
  exact ⟨rfl, rfl, rfl, rfl, rfl⟩

/-- Settles O29: both states run the one operation the word spells, and its response is the same in
every state. -/
theorem responseDependsOnTheRequestAlone : Obligations.ResponseDependsOnTheRequestAlone := by
  intro w rest rest' s s' t hs hs' h
  obtain ⟨i, hd⟩ := decode_ok_of_step_present_next hs h
  obtain ⟨v, hv, hstep⟩ := step_present_writes_responseAlone hs hd
  obtain ⟨v', hv', hstep'⟩ := step_present_writes_responseAlone hs' hd
  cases hstep.symm.trans h
  exact ⟨_, hstep', hv'.symm.trans hv, rfl⟩

/-- A step that goes on and changes `R` is a reset or presents an accepted word (R24). -/
theorem step_changes_response_cases {s t : State} (h : step s = .next t)
    (hne : t.response ≠ s.response) :
    s.inputs.head? = some .reset ∧ t.response = none ∨
    ∃ w, s.inputs.head? = some (.present w) ∧ accepted w = true := by
  obtain ⟨-, rfl⟩ | ⟨w, rest, i, v, hin, hd, -, -⟩ | ⟨rest, v, -, -, rfl⟩ | ⟨rest, hin, rfl⟩ :=
    step_next_cases h
  · exact absurd rfl hne
  · exact .inr ⟨w, by rw [hin, List.head?_cons], (accepted_iff w).2 ⟨i, hd⟩⟩
  · exact absurd rfl hne
  · exact .inl ⟨by rw [hin, List.head?_cons], rfl⟩

/-- Settles O42: the response is written by accepted requests, cleared by reset and kept by every
other step, a refused one included. -/
theorem responseHoldsUntilNextRequest : Obligations.ResponseHoldsUntilNextRequest := by
  refine ⟨reset_response, ?accepted, fun _ _ => step_changes_response_cases, ?refused⟩
  case accepted =>
    intro w rest i s hin hd
    obtain ⟨v, hv, hstep⟩ := step_present_writes_responseAlone hin hd
    exact ⟨_, hstep, hv.symm, rfl⟩
  case refused =>
    intro s after reason h
    obtain ⟨w, rest, reason', -, -, hr⟩ := step_refused_cases h
    cases hr
    rfl

/-- Settles O38: the word `withFetchWord` places is the head of the host's list, and the step runs
what it decodes to. -/
theorem placedWordRunsNext : Obligations.PlacedWordRunsNext := by
  intro nbits w i s h
  obtain ⟨hword, hd⟩ := (decodeTableWord_eq_some_iff nbits w i).1 h
  rw [withFetchWord_of_some s hword]
  exact step_present_of_ok (presentNext_inputs _ s) hd

/-- Settles O44: the two cases of the host's read. -/
theorem hostReadTakesTheResponse : Obligations.HostReadTakesTheResponse :=
  ⟨fun _ _ _ => step_readResponse_of_some, fun _ _ => step_readResponse_of_none⟩

end Sys2Proof.Machine

/-! ### Encoding and decoding

A request word splits into the fields it is assembled from, and the decoder reads an operation back
from its encoding (30_encoding.md rules R40 and R53).
-/

namespace Sys2Proof

/-- R40: splitting a request word is the left inverse of assembling it. -/
@[simp] theorem ofWord_word (q : Request) : Request.ofWord q.word = q := by
  have haLt := q.a.isLt
  have hbLt := q.b.isLt
  have hop : (Request.ofWord q.word).op = q.op :=
    BitVec.eq_of_toNat_eq (by rw [ofWord_op_toNat, word_toNat]; omega)
  have ha : (Request.ofWord q.word).a = q.a :=
    BitVec.eq_of_toNat_eq (by rw [ofWord_a_toNat, word_toNat]; omega)
  have hb : (Request.ofWord q.word).b = q.b :=
    BitVec.eq_of_toNat_eq (by rw [ofWord_b_toNat, word_toNat]; omega)
  exact (Request.mk.injEq ..).mpr ⟨hop, ha, hb⟩

/-- R53: the decoder reads the fields of every operation back as that operation. A DoubleWord
operand is split from the field it was assembled in; format U finds its `B` zero. -/
theorem decodeRequest_encodeRequest (i : Instr) : decodeRequest (encodeRequest i) = .ok i := by
  cases i with
  | cmp a b => exact congrArg₂ (Except.ok <| Instr.cmp · ·) (ofField_bits a) (ofField_bits b)
  | add a b => exact congrArg₂ (Except.ok <| Instr.add · ·) (ofField_bits a) (ofField_bits b)
  | sub a b => exact congrArg₂ (Except.ok <| Instr.sub · ·) (ofField_bits a) (ofField_bits b)
  | mul a b => exact congrArg₂ (Except.ok <| Instr.mul · ·) (ofField_bits a) (ofField_bits b)
  | from16 n => rfl
  | to16 d => exact congrArg (Except.ok <| Instr.to16 ·) (ofField_bits d)

/-- R53: decoding the encoding of an operation gives it back. -/
@[simp] theorem decode_encode (i : Instr) : decode (encode i) = .ok i := by
  rw [decode, encode, ofWord_word, decodeRequest_encodeRequest]

end Sys2Proof

/-! ### Obligations of the memory family

A repeated request, and the responses of a host's requests in order (20_memory.md rules R32 and
R35).
-/

namespace Sys2Proof.Machine

/-- Settles O30: both steps run the one operation the word spells, so the second writes the request
fields and the response the first has written. -/
theorem repeatedRequestChangesNothing : Obligations.RepeatedRequestChangesNothing := by
  intro w rest s t hin h
  obtain ⟨i, hd⟩ := decode_ok_of_step_present_next hin h
  obtain ⟨v, hv, hstep⟩ := step_present_writes_responseAlone hin hd
  cases hstep.symm.trans h
  obtain ⟨v', hv', hstep'⟩ := step_present_writes_responseAlone
    (s := writeResponse v (presentRequest w { s with inputs := .present w :: rest })) rfl hd
  cases hv.symm.trans hv'
  exact hstep'

/-- R35: two steps present an operation and read its response. The host takes the response the
operation gets alone; the mark and the rest of the host's list stay. -/
theorem run_present_readResponse {i : Instr} {es : List HostEvent} {s : State}
    (hin : s.inputs = .present (encode i) :: .readResponse :: es) :
    ∃ (v : Field) (t : State), responseAlone i = some v ∧
      (∀ k, Sys2Proof.core.run (k + 2) s = Sys2Proof.core.run k t) ∧
      t.inputs = es ∧ t.refusalMark = s.refusalMark ∧ t.taken = s.taken ++ [v] := by
  obtain ⟨v, hv, hpresent⟩ := step_present_writes_responseAlone hin (decode_encode i)
  have hread := step_readResponse_of_some (rest := es) (v := v)
    (s := writeResponse v (presentRequest (encode i) { s with inputs := .readResponse :: es }))
    rfl rfl
  exact ⟨v, _, hv, fun k => (run_succ_of_next hpresent).trans (run_succ_of_next hread),
    rfl, rfl, rfl⟩

/-- Settles O49, by induction on the operations: the first one's two steps append its response to
the host's takings, and the run goes on from the state they leave. -/
theorem responsesComeInRequestOrder : Obligations.ResponsesComeInRequestOrder := by
  intro ops rest
  induction ops with
  | nil =>
    intro s hin
    exact ⟨s, run_zero s, hin, rfl, (List.append_nil _).symm⟩
  | cons i ops ih =>
    intro s hin
    obtain ⟨v, s', hv, hrun, hin', hmark', htaken'⟩ := run_present_readResponse hin
    obtain ⟨t, hrun', hrest, hmark, htaken⟩ := ih s' hin'
    refine ⟨t, (hrun _).trans hrun', hrest, hmark.trans hmark', ?_⟩
    simp [htaken, htaken', hv]

end Sys2Proof.Machine

/-! ### The decoder's inverse and its refusals

What the fields of a request say of its decoding: the decoder accepts exactly the requests that
encode an operation, and refuses the others for one reason each (30_encoding.md rules R45 to R48,
R53; 60_exceptions.md rule R87).
-/

namespace Sys2Proof

/-- R40: assembling a request word is the left inverse of splitting it, so no bit is dropped. -/
@[simp] theorem word_ofWord (w : RequestWord) : (Request.ofWord w).word = w := by
  have hlt := w.isLt
  apply BitVec.eq_of_toNat_eq
  rw [word_toNat, ofWord_op_toNat, ofWord_a_toNat, ofWord_b_toNat]
  omega

/-- R40: a request word and its three fields hold the same bits. -/
theorem ofWord_eq_iff (w : RequestWord) (q : Request) : Request.ofWord w = q ↔ w = q.word :=
  ⟨fun h => h ▸ (word_ofWord w).symm, fun h => h ▸ ofWord_word q⟩

/-- R46, R47, R53: the three outcomes of the decoder, each with what it says of the fields. -/
theorem decodeRequest_cases (q : Request) :
    (∃ i, decodeRequest q = .ok i ∧ encodeRequest i = q) ∨
    ((q.op = 0#4 ∨ 7 ≤ q.op.toNat) ∧ decodeRequest q = .error .reservedOp) ∨
    (((q.op = 5#4 ∨ q.op = 6#4) ∧ q.b ≠ 0#16) ∧
      decodeRequest q = .error .nonzeroUnusedOperand) := by
  obtain ⟨op, a, b⟩ := q
  have code (n : Nat) (h : op.toNat = n) : op = BitVec.ofNat 4 n :=
    BitVec.eq_of_toNat_eq (by rw [BitVec.toNat_ofNat, ← h, Nat.mod_eq_of_lt op.isLt])
  unfold decodeRequest
  split
  case h_1 h | h_2 h | h_3 h | h_4 h =>
    left
    exact ⟨_, rfl, by simp [encodeRequest, Instr.opcode, Instr.fieldA, Instr.fieldB, code _ h]⟩
  case h_5 h | h_6 h =>
    by_cases hb : b = 0#16
    · left
      exact ⟨_, if_pos hb,
        by simp [encodeRequest, Instr.opcode, Instr.fieldA, Instr.fieldB, code _ h, hb]⟩
    · right; right
      exact ⟨⟨by simp [code _ h], hb⟩, if_neg hb⟩
  all_goals
    right; left
    exact ⟨by rw [← BitVec.toNat_inj, BitVec.toNat_ofNat]; omega, rfl⟩

/-- R45, R47: every operation is encoded as a request a host may present. -/
theorem encodingShape (i : Instr) : Laws.EncodingShape.Statement i := by
  cases i with
  | cmp a b => exact Laws.EncodingShape.cmp a b
  | add a b => exact Laws.EncodingShape.add a b
  | sub a b => exact Laws.EncodingShape.sub a b
  | mul a b => exact Laws.EncodingShape.mul a b
  | from16 n => exact Laws.EncodingShape.from16 n
  | to16 d => exact Laws.EncodingShape.to16 d

/-- R48: a request is well formed exactly when neither reason of R87 refuses it. -/
theorem wellFormed_iff (q : Request) :
    q.wellFormed = true ↔
      ¬(q.op = 0#4 ∨ 7 ≤ q.op.toNat) ∧ ¬((q.op = 5#4 ∨ q.op = 6#4) ∧ q.b ≠ 0#16) := by
  have hassigned : q.opAssigned = true ↔ ¬(q.op = 0#4 ∨ 7 ≤ q.op.toNat) := by
    rw [Request.opAssigned, decide_eq_true_iff, ← BitVec.toNat_inj, BitVec.toNat_ofNat]
    omega
  have hunused : q.unusedZero = true ↔ ¬((q.op = 5#4 ∨ q.op = 6#4) ∧ q.b ≠ 0#16) := by
    by_cases hop : q.op = 5#4 ∨ q.op = 6#4
    · simp [Request.unusedZero, hop]
    · simp [Request.unusedZero, hop]
  rw [Request.wellFormed, Bool.and_eq_true, hassigned, hunused]

/-- R45, R53: the decoder reads an operation from exactly the request that encodes it. -/
theorem decodeRequest_eq_ok_iff (q : Request) (i : Instr) :
    decodeRequest q = .ok i ↔ encodeRequest i = q := by
  refine ⟨fun hd => ?_, fun he => he ▸ decodeRequest_encodeRequest i⟩
  obtain ⟨j, hj, he⟩ | ⟨-, hr⟩ | ⟨-, hr⟩ := decodeRequest_cases q
  · cases hd.symm.trans hj
    exact he
  · cases hd.symm.trans hr
  · cases hd.symm.trans hr

/-- R48: the decoder accepts exactly the well-formed requests. -/
theorem exists_decodeRequest_iff (q : Request) :
    (∃ i, decodeRequest q = .ok i) ↔ q.wellFormed = true := by
  simp only [decodeRequest_eq_ok_iff]
  refine ⟨fun ⟨i, he⟩ => he ▸ (encodingShape i).1, fun hwf => ?_⟩
  obtain ⟨hreserved, hunused⟩ := (wellFormed_iff q).1 hwf
  obtain ⟨i, -, he⟩ | ⟨h, -⟩ | ⟨h, -⟩ := decodeRequest_cases q
  · exact ⟨i, he⟩
  · exact absurd h hreserved
  · exact absurd h hunused

/-- R46: the requests refused for their code. -/
theorem decodeRequest_eq_reservedOp_iff (q : Request) :
    decodeRequest q = .error .reservedOp ↔ q.op = 0#4 ∨ 7 ≤ q.op.toNat := by
  obtain ⟨i, hd, -⟩ | ⟨h, hd⟩ | ⟨⟨h, -⟩, hd⟩ := decodeRequest_cases q
  · have hwf := (wellFormed_iff q).1 ((exists_decodeRequest_iff q).1 ⟨i, hd⟩)
    simp [hd, hwf.1]
  · simp [hd, h]
  · rcases h with h | h <;> simp [hd, h]

/-- R47: the requests refused for their unused operand. -/
theorem decodeRequest_eq_nonzeroUnusedOperand_iff (q : Request) :
    decodeRequest q = .error .nonzeroUnusedOperand ↔
      (q.op = 5#4 ∨ q.op = 6#4) ∧ q.b ≠ 0#16 := by
  obtain ⟨i, hd, -⟩ | ⟨h, hd⟩ | ⟨h, hd⟩ := decodeRequest_cases q
  · have hwf := (wellFormed_iff q).1 ((exists_decodeRequest_iff q).1 ⟨i, hd⟩)
    simp only [hd, hwf.2, reduceCtorEq]
  · have hop : ¬(q.op = 5#4 ∨ q.op = 6#4) := by
      simp only [← BitVec.toNat_inj, BitVec.toNat_ofNat] at h ⊢
      omega
    simp [hd, hop]
  · simp [hd, h]

/-- R45: an operation with a code of a set is decoded exactly where the request has such a code and
is well formed. -/
theorem exists_decodeRequest_opcode_iff (q : Request) (p : BitVec 4 → Prop) :
    (∃ i, decodeRequest q = .ok i ∧ p i.opcode) ↔ p q.op ∧ q.wellFormed = true := by
  have hop {i : Instr} (hd : decodeRequest q = .ok i) : i.opcode = q.op :=
    congrArg Request.op ((decodeRequest_eq_ok_iff q i).1 hd)
  rw [← exists_decodeRequest_iff]
  exact ⟨fun ⟨i, hd, hp⟩ => ⟨hop hd ▸ hp, i, hd⟩, fun ⟨hp, i, hd⟩ => ⟨i, hd, (hop hd).symm ▸ hp⟩⟩

/-- The codes of a format (R45). -/
def Format.codes : Format → List (BitVec 4)
  | .D => [1#4, 2#4, 3#4, 4#4]
  | .U => [5#4, 6#4]

/-- R45: the code of an operation decides its format. -/
theorem format_eq_iff (i : Instr) (f : Format) : i.format = f ↔ i.opcode ∈ f.codes := by
  cases f <;> cases i <;> simp [Instr.format, Instr.opcode, Format.codes]

/-- R46, R47: a request with a format D code is well formed whatever it holds. -/
theorem wellFormed_of_formatD {q : Request} (h : q.op ∈ Format.D.codes) :
    q.wellFormed = true := by
  simp only [Format.codes, List.mem_cons, List.not_mem_nil, or_false] at h
  rw [wellFormed_iff]
  rcases h with h | h | h | h <;> simp [h]

/-- R47: a request with a format U code is well formed exactly when its `B` is zero. -/
theorem wellFormed_iff_of_formatU {q : Request} (h : q.op ∈ Format.U.codes) :
    q.wellFormed = true ↔ q.b = 0#16 := by
  simp only [Format.codes, List.mem_cons, List.not_mem_nil, or_false] at h
  rw [wellFormed_iff]
  rcases h with h | h <;> simp [h]

end Sys2Proof

/-! ### The opcode table

A row's mask and pattern, read as the fields of a request (30_encoding.md rules R40 and R45).
-/

namespace Sys2Proof

/-- The bits of a request word under a mask are the bits of its fields under the mask's fields. -/
theorem word_and_word (q m : Request) :
    q.word &&& m.word = (Request.mk (q.op &&& m.op) (q.a &&& m.a) (q.b &&& m.b)).word :=
  BitVec.and_append.trans (congrArg (· ++ (q.b &&& m.b)) BitVec.and_append)

theorem word_inj {q r : Request} : q.word = r.word ↔ q = r := by
  rw [← ofWord_eq_iff, ofWord_word]

/-- A table row whose mask covers `OP` and the bits `m` of `B` is matched by its code with zeros
under `m`. -/
theorem matchesWord_iff (c : BitVec 4) (m : Field) (q : Request) :
    (OpcodeRow.mk c (Request.mk c 0#16 0#16).word (Request.mk 0xF#4 0#16 m).word).matchesWord q.word
      = true ↔ q.op = c ∧ q.b &&& m = 0#16 := by
  have hop : q.op &&& 0xF#4 = q.op := BitVec.and_allOnes
  simp [OpcodeRow.matchesWord, word_and_word, word_inj, hop]

/-- R45: the rows of the opcode table are those of the four format D codes, whose masks cover `OP`,
and those of the two format U codes, whose masks cover `B` too. -/
theorem opcodeTable_eq :
    opcodeTable =
      (Format.D.codes.map fun c =>
        ⟨c, (Request.mk c 0#16 0#16).word, (Request.mk 0xF#4 0#16 0#16).word⟩) ++
      (Format.U.codes.map fun c =>
        ⟨c, (Request.mk c 0#16 0#16).word, (Request.mk 0xF#4 0#16 0xFFFF#16).word⟩) := by
  decide

/-- R45: a word matches a row exactly when it is well formed and has the row's code. -/
theorem matchesWord_iff_wellFormed {r : OpcodeRow} (hr : r ∈ opcodeTable) (q : Request) :
    r.matchesWord q.word = true ↔ q.op = r.opcode ∧ q.wellFormed = true := by
  rw [opcodeTable_eq, List.mem_append, List.mem_map, List.mem_map] at hr
  obtain ⟨c, hc, rfl⟩ | ⟨c, hc, rfl⟩ := hr
  · rw [matchesWord_iff, BitVec.and_zero]
    exact and_congr_right fun hop => iff_of_true rfl (wellFormed_of_formatD (hop ▸ hc))
  · have hmask : q.b &&& 0xFFFF#16 = q.b := BitVec.and_allOnes
    rw [matchesWord_iff, hmask]
    exact and_congr_right fun hop => (wellFormed_iff_of_formatU (hop ▸ hc)).symm

end Sys2Proof

/-! ### Counting request words

The classes of R48 as sets of codes and of `B` fields.
-/

namespace Sys2Proof

/-- R40: a request word as the triple of its fields. -/
def wordEquiv : RequestWord ≃ BitVec 4 × Field × Field where
  toFun w := ((Request.ofWord w).op, (Request.ofWord w).a, (Request.ofWord w).b)
  invFun x := (Request.mk x.1 x.2.1 x.2.2).word
  left_inv := word_ofWord
  right_inv x := by simp only [ofWord_word]

theorem card_field : Fintype.card Field = 2 ^ 16 :=
  FinEnum.card_eq_fintypeCard.symm

/-- How many request words have their `OP` in one set and their `B` in another: `A` is free. -/
theorem card_requestWords (ops : Finset (BitVec 4)) (bs : Finset Field) {p : RequestWord → Prop}
    (hp : ∀ w, p w ↔ (Request.ofWord w).op ∈ ops ∧ (Request.ofWord w).b ∈ bs) :
    Nat.card { w // p w } = ops.card * (2 ^ 16 * bs.card) := by
  rw [Nat.subtype_card ((ops ×ˢ Finset.univ ×ˢ bs).map wordEquiv.symm.toEmbedding), Finset.card_map,
    Finset.card_product, Finset.card_product, Finset.card_univ, card_field]
  intro w
  simp [hp, Finset.mem_map_equiv, wordEquiv]

end Sys2Proof

/-! ### Sums and differences of DoubleWords

ADD and SUB on patterns, from the carry and the borrow of the Word layer (40_word_layer.md rules R58
and R59; 42_add_sub.md rules R64 to R67).
-/

namespace Sys2Proof.Machine

/-- The wrapped sum of two Words and the overflow counted by the accumulator (R58, R60). -/
theorem wordAddCarry_toNat (a b acc : Word) :
    (wordAddCarry a b acc).1.toNat = (a.toNat + b.toNat) % 256 ∧
    (wordAddCarry a b acc).2.toNat = (acc.toNat + (a.toNat + b.toNat) / 256) % 256 := by
  have ha := a.isLt
  have hb := b.isLt
  simp only [wordAddCarry, BitVec.toNat_ofInt]
  split <;> omega

/-- The wrapped difference of two Words and the borrow counted by the accumulator (R59, R60). -/
theorem wordSubBorrow_toNat (a b acc : Word) :
    (wordSubBorrow a b acc).1.toNat = (256 + a.toNat - b.toNat) % 256 ∧
    (wordSubBorrow a b acc).2.toNat =
      (acc.toNat + if a.toNat < b.toNat then 1 else 0) % 256 := by
  have ha := a.isLt
  have hb := b.isLt
  simp only [wordSubBorrow, BitVec.toNat_ofInt]
  split <;> omega

/-- R65: on patterns ADD is addition modulo 2^16. -/
theorem addDw_bits (a b : DoubleWord) : (addDw a b).bits = a.bits + b.bits := by
  obtain ⟨hlo, hcarry⟩ := wordAddCarry_toNat a.lo b.lo 0#8
  have hhi : (addDw a b).hi = a.hi + b.hi + (wordAddCarry a.lo b.lo 0#8).2 := by
    simp [addDw, wrap, BitVec.ofInt_add]
  apply BitVec.eq_of_toNat_eq
  rw [bits_toNat, hhi, show (addDw a b).lo = (wordAddCarry a.lo b.lo 0#8).1 from rfl]
  simp only [BitVec.toNat_add, bits_toNat, hlo, hcarry, BitVec.toNat_ofNat]
  have ha := a.lo.isLt
  have hb := b.lo.isLt
  omega

/-- R67: on patterns SUB is subtraction modulo 2^16. -/
theorem subDw_bits (a b : DoubleWord) : (subDw a b).bits = a.bits - b.bits := by
  obtain ⟨hlo, hborrow⟩ := wordSubBorrow_toNat a.lo b.lo 0#8
  have hhi : (subDw a b).hi = a.hi - b.hi - (wordSubBorrow a.lo b.lo 0#8).2 := by
    simp [subDw, wrap, sub_eq_add_neg, BitVec.ofInt_add, BitVec.ofInt_neg]
  apply BitVec.eq_of_toNat_eq
  rw [bits_toNat, hhi, show (subDw a b).lo = (wordSubBorrow a.lo b.lo 0#8).1 from rfl]
  simp only [BitVec.toNat_sub, bits_toNat, hlo, hborrow, BitVec.toNat_ofNat]
  have haLo := a.lo.isLt
  have hbLo := b.lo.isLt
  have hbHi := b.hi.isLt
  split <;> omega

end Sys2Proof.Machine

/-! ### Products of DoubleWords

MUL on patterns, from the sums its positions hold (43_multiply.md rules R68 to R78).
-/

namespace Sys2Proof.Machine

theorem nibbleProduct_toNat (m n : Nibble) : (nibbleProduct m n).toNat = m.toNat * n.toNat := by
  have hle : m.toNat * n.toNat ≤ 15 * 15 :=
    Nat.mul_le_mul (Nat.le_of_lt_succ m.isLt) (Nat.le_of_lt_succ n.isLt)
  simp only [nibbleProduct, BitVec.toNat_ofInt]
  omega

/-- The unsigned value of the sum of a list of nibbles. -/
def nibbleSum (terms : List Nibble) : Nat :=
  (terms.map BitVec.toNat).sum

theorem nibbleAddCarry_toNat (a b : Nibble) (acc : Word) :
    (nibbleAddCarry a b acc).1.toNat = (a.toNat + b.toNat) % 16 ∧
    (nibbleAddCarry a b acc).2.toNat = (acc.toNat + (a.toNat + b.toNat) / 16) % 256 := by
  have ha := a.isLt
  have hb := b.isLt
  simp only [nibbleAddCarry, loNibble_toNat, hiNibble_toNat, BitVec.toNat_ofInt]
  omega

/-- The number that a position's result nibble and carry out stand for. -/
def positionValue (r : Nibble × Word) : Nat :=
  16 * r.2.toNat + r.1.toNat

theorem positionValue_fst (r : Nibble × Word) : r.1.toNat = positionValue r % 16 := by
  have h := r.1.isLt
  rw [positionValue]
  omega

theorem positionValue_snd (r : Nibble × Word) : r.2.toNat = positionValue r / 16 := by
  have h := r.1.isLt
  rw [positionValue]
  omega

/-- R74: the running nibble and the accumulator hold the sum of the terms so far; the accumulator
wraps at 256, so the sum at 4096. -/
theorem foldl_nibbleAddCarry_value (terms : List Nibble) (r : Nibble × Word) :
    positionValue (terms.foldl (fun running t => nibbleAddCarry running.1 t running.2) r) =
      (positionValue r + nibbleSum terms) % 4096 := by
  induction terms generalizing r with
  | nil =>
    have hn := r.1.isLt
    have hacc := r.2.isLt
    simp only [List.foldl_nil, nibbleSum, positionValue, List.map_nil, List.sum_nil]
    omega
  | cons t terms ih =>
    obtain ⟨hn, hacc⟩ := nibbleAddCarry_toNat r.1 t r.2
    rw [List.foldl_cons, ih]
    simp only [positionValue, hn, hacc, nibbleSum, List.map_cons, List.sum_cons]
    omega

theorem carryPosition_value (c : Word) (terms : List Nibble) :
    positionValue (carryPosition c terms) = (c.toNat % 16 + nibbleSum terms) % 4096 := by
  rw [carryPosition, foldl_nibbleAddCarry_value, positionValue, loNibble_toNat]
  simp

/-- R75: the truncating position is the sum of its terms modulo 16. -/
theorem truncatePosition_toNat (c : Word) (terms : List Nibble) :
    (truncatePosition c terms).toNat = (c.toNat % 16 + nibbleSum terms) % 16 := by
  have hfold (r : Nibble) : (terms.foldl nibbleAdd r).toNat = (r.toNat + nibbleSum terms) % 16 := by
    induction terms generalizing r with
    | nil =>
      have hr := r.isLt
      simp only [List.foldl_nil, nibbleSum, List.map_nil, List.sum_nil]
      omega
    | cons t terms ih =>
      have hadd : (nibbleAdd r t).toNat = (r.toNat + t.toNat) % 16 :=
        (nibbleAddCarry_toNat r t 0#8).1
      rw [List.foldl_cons, ih, hadd]
      simp only [nibbleSum, List.map_cons, List.sum_cons]
      omega
  rw [truncatePosition, hfold, loNibble_toNat]

/-- A sum of nibbles is at most 15 for each of them. -/
theorem nibbleSum_le (terms : List Nibble) : nibbleSum terms ≤ 15 * terms.length := by
  induction terms with
  | nil => exact le_rfl
  | cons t terms ih =>
    have ht := t.isLt
    simp only [nibbleSum, List.map_cons, List.sum_cons, List.length_cons] at ih ⊢
    omega

/-- R71: the products at their positions are the terms of the positions, and the discarded terms
weigh 2^16. -/
theorem positionedProducts_sum (p : PartialProducts) :
    ((positionedProducts p).map fun x => 16 ^ x.1 * x.2.toNat).sum =
      (mulPosition0 p).1.toNat + 16 * nibbleSum (position1Terms p) +
        256 * nibbleSum (position2Terms p) + 4096 * nibbleSum (position3Terms p) +
        65536 * nibbleSum (discardedTerms p) := by
  simp only [positionedProducts, mulPosition0, position1Terms, position2Terms, position3Terms,
    discardedTerms, nibbleSum, List.map_cons, List.map_nil, List.sum_cons, List.sum_nil,
    hiNibble_toNat, loNibble_toNat]
  omega

/-- R71 to R76: the four result nibbles are the low 16 bits of the sum of the products at their
positions. No carry is lost on the way: three and five terms leave a carry of less than 16. -/
theorem assembleNibbles_toNat (p : PartialProducts) :
    (assembleNibbles (mulPosition3 p) (mulPosition2 p).1 (mulPosition1 p).1
        (mulPosition0 p).1).bits.toNat =
      ((positionedProducts p).map fun x => 16 ^ x.1 * x.2.toNat).sum % 65536 := by
  have h0 := (mulPosition0 p).1.isLt
  have h1 : positionValue (mulPosition1 p) = (0 + nibbleSum (position1Terms p)) % 4096 :=
    carryPosition_value _ _
  have h2 : positionValue (mulPosition2 p) =
      ((mulPosition1 p).2.toNat % 16 + nibbleSum (position2Terms p)) % 4096 :=
    carryPosition_value _ _
  have h3 : (mulPosition3 p).toNat =
      ((mulPosition2 p).2.toNat % 16 + nibbleSum (position3Terms p)) % 16 :=
    truncatePosition_toNat _ _
  have hle1 : nibbleSum (position1Terms p) ≤ 45 := nibbleSum_le _
  have hle2 : nibbleSum (position2Terms p) ≤ 75 := nibbleSum_le _
  rw [positionValue_snd] at h2 h3
  rw [bits_toNat, positionedProducts_sum]
  simp only [assembleNibbles, toNat_append_eq, positionValue_fst (mulPosition1 p),
    positionValue_fst (mulPosition2 p)]
  omega

/-- R68: a DoubleWord is its four nibbles at their weights. -/
theorem bits_toNat_nibbles (d : DoubleWord) :
    d.bits.toNat = 4096 * (hiNibble d.hi).toNat + 256 * (loNibble d.hi).toNat +
      16 * (hiNibble d.lo).toNat + (loNibble d.lo).toNat := by
  simp only [bits_toNat, hiNibble_toNat, loNibble_toNat]
  omega

/-- Schoolbook multiplication in base 16 up to 16^4: the six products of position 4 and above weigh
2^16 or more. -/
theorem digits_mul_mod (a3 a2 a1 a0 b3 b2 b1 b0 : Nat) :
    (4096 * a3 + 256 * a2 + 16 * a1 + a0) * (4096 * b3 + 256 * b2 + 16 * b1 + b0) % 65536 =
      (b0 * a0 + 16 * (b0 * a1 + b1 * a0) + 256 * (b0 * a2 + b1 * a1 + b2 * a0) +
        4096 * (b0 * a3 + b1 * a2 + b2 * a1 + b3 * a0)) % 65536 := by
  have hsplit : (4096 * a3 + 256 * a2 + 16 * a1 + a0) * (4096 * b3 + 256 * b2 + 16 * b1 + b0) =
      b0 * a0 + 16 * (b0 * a1 + b1 * a0) + 256 * (b0 * a2 + b1 * a1 + b2 * a0) +
        4096 * (b0 * a3 + b1 * a2 + b2 * a1 + b3 * a0) +
      65536 * (b1 * a3 + b2 * a2 + b3 * a1 + 16 * (b2 * a3 + b3 * a2) + 256 * (b3 * a3)) := by
    ring
  rw [hsplit, Nat.add_mul_mod_self_left]

/-- R78: on patterns MUL is multiplication modulo 2^16. -/
theorem mulDw_bits (a b : DoubleWord) : (mulDw a b).bits = a.bits * b.bits := by
  have hsum := assembleNibbles_toNat (partialProducts (operandNibbles a b))
  simp only [positionedProducts, partialProducts, operandNibbles, nibbleProduct_toNat,
    List.map_cons, List.map_nil, List.sum_cons, List.sum_nil] at hsum
  apply BitVec.eq_of_toNat_eq
  rw [BitVec.toNat_mul, bits_toNat_nibbles a, bits_toNat_nibbles b, digits_mul_mod]
  exact hsum.trans (congrArg (· % 65536) (by ring))

end Sys2Proof.Machine

/-! ### Responses as values

What CMP, ADD, SUB and MUL respond, in terms of the values of their operands (41_compare.md rules
R61 to R63, 42_add_sub.md rules R65 and R67, 43_multiply.md rule R78).
-/

namespace Sys2Proof.Machine

/-- R61, R62: the two tiers answer the order of the values. -/
theorem compareDw_cases (a b : DoubleWord) :
    dwValue a < dwValue b ∧ compareDw a b = .lessThan ∨
    dwValue a = dwValue b ∧ compareDw a b = .equal ∨
    dwValue b < dwValue a ∧ compareDw a b = .greaterThan := by
  have ha := a.lo.isLt
  have hb := b.lo.isLt
  rw [dwValue_eq, dwValue_eq, compareDw]
  split_ifs with hhiLt hhiGt hloLt hloGt
  · exact .inl ⟨by omega, rfl⟩
  · exact .inr (.inr ⟨by omega, rfl⟩)
  · exact .inl ⟨by omega, rfl⟩
  · exact .inr (.inr ⟨by omega, rfl⟩)
  · exact .inr (.inl ⟨by omega, rfl⟩)

/-- A DoubleWord's pattern is the wrapping of its value. -/
theorem ofInt_dwValue (d : DoubleWord) : BitVec.ofInt 16 (dwValue d) = d.bits :=
  BitVec.ofInt_toInt

theorem dwValue_ofField (f : Field) : dwValue (DoubleWord.ofField f) = f.toInt := by
  rw [dwValue, bits_ofField]

/-- R65: ADD responds the wrapped sum. -/
theorem exec_add (a b : DoubleWord) (s : State) :
    exec (.add a b) s = .next (writeResponse (wrap 16 (dwValue a + dwValue b)) s) := by
  rw [show exec (.add a b) s = .next (writeResponse (addDw a b).bits s) from rfl, addDw_bits, wrap,
    BitVec.ofInt_add, ofInt_dwValue, ofInt_dwValue]

/-- R67: SUB responds the wrapped difference. -/
theorem exec_sub (a b : DoubleWord) (s : State) :
    exec (.sub a b) s = .next (writeResponse (wrap 16 (dwValue a - dwValue b)) s) := by
  rw [show exec (.sub a b) s = .next (writeResponse (subDw a b).bits s) from rfl, subDw_bits, wrap,
    Int.sub_eq_add_neg, BitVec.ofInt_add, BitVec.ofInt_neg, ofInt_dwValue, ofInt_dwValue,
    BitVec.sub_eq_add_neg]

/-- R78: MUL responds the truncated product. -/
theorem exec_mul (a b : DoubleWord) (s : State) :
    exec (.mul a b) s = .next (writeResponse (wrap 16 (dwValue a * dwValue b)) s) := by
  rw [show exec (.mul a b) s = .next (writeResponse (mulDw a b).bits s) from rfl, mulDw_bits, wrap,
    BitVec.ofInt_mul, ofInt_dwValue, ofInt_dwValue]

/-- R62, R63: CMP responds the code of the order of the values. -/
theorem exec_cmp (a b : DoubleWord) (s : State) :
    exec (.cmp a b) s = .next (writeResponse (if dwValue a < dwValue b then 0xFFFF#16
      else if dwValue a = dwValue b then 0x0000#16 else 0x0001#16) s) := by
  rw [show exec (.cmp a b) s = .next (writeResponse (orderingCode (compareDw a b)) s) from rfl]
  obtain ⟨h, hc⟩ | ⟨h, hc⟩ | ⟨h, hc⟩ := compareDw_cases a b
  · rw [hc, if_pos h, orderingCode]
  · rw [hc, if_neg h.not_lt, if_pos h, orderingCode]
  · rw [hc, if_neg h.not_gt, if_neg h.ne', orderingCode]

end Sys2Proof.Machine

/-! ### Hexadecimal digits and literals

The digits of a field and the literals that assemble (30_encoding.md rules R41 and R51).
-/

namespace Sys2Proof.Machine

@[simp] theorem fieldDigits_length (v : Field) : (fieldDigits v).length = 4 := rfl

/-- R41: the four digits of a field spell it. -/
theorem digitsValue_fieldDigits (v : Field) : digitsValue (fieldDigits v) = v.toNat := by
  have hlt := v.isLt
  simp only [digitsValue, fieldDigits, List.foldl_cons, List.foldl_nil, BitVec.extractLsb'_toNat,
    Nat.shiftRight_eq_div_pow]
  omega

theorem foldl_digits_lt (digits : List Nibble) (n : Nat) :
    digits.foldl (fun n d => 16 * n + d.toNat) n < (n + 1) * 16 ^ digits.length := by
  induction digits generalizing n with
  | nil => simp
  | cons d digits ih =>
    have hd := d.isLt
    calc digits.foldl (fun n d => 16 * n + d.toNat) (16 * n + d.toNat)
        < (16 * n + d.toNat + 1) * 16 ^ digits.length := ih _
      _ ≤ ((n + 1) * 16) * 16 ^ digits.length := Nat.mul_le_mul_right _ (by omega)
      _ = (n + 1) * 16 ^ (d :: digits).length := by
        rw [List.length_cons, Nat.pow_succ', Nat.mul_assoc]

/-- `k` hex digits spell a number below `16^k`. -/
theorem digitsValue_lt (digits : List Nibble) : digitsValue digits < 16 ^ digits.length := by
  simpa [digitsValue] using foldl_digits_lt digits 0

/-- R51: a literal is assembled exactly when it is well formed. -/
theorem exists_literalField_iff (l : AsmLiteral) :
    (∃ v, literalField l = .ok v) ↔ l.wellFormed = true := by
  by_cases h : l.wellFormed = true
  · cases l with
    | hex digits => simp [literalField, h]
    | dec value => simp [literalField, h]
  · simp [literalField, h]

theorem literalField_of_not_wellFormed {l : AsmLiteral} (h : l.wellFormed = false) :
    literalField l = .error .badLiteral := by
  simp [literalField, h]

theorem literalField_hex {digits : List Nibble} (hpos : 1 ≤ digits.length)
    (hle : digits.length ≤ 4) :
    literalField (.hex digits) = .ok (wrap 16 (digitsValue digits)) :=
  if_pos (decide_eq_true ⟨hpos, hle⟩)

theorem literalField_dec {n : Int} (hlow : -32768 ≤ n) (hhigh : n ≤ 32767) :
    literalField (.dec n) = .ok (wrap 16 n) :=
  if_pos (decide_eq_true ⟨hlow, hhigh⟩)

/-- R51: the four digits of a field assemble to it. -/
@[simp] theorem literalField_fieldDigits (v : Field) :
    literalField (.hex (fieldDigits v)) = .ok v := by
  have hlength := fieldDigits_length v
  rw [literalField_hex (by omega) (by omega), digitsValue_fieldDigits, wrap,
    BitVec.ofInt_natCast, BitVec.ofNat_toNat, BitVec.setWidth_eq]

end Sys2Proof.Machine

/-! ### Assembling lines

When the operands of a line have values and its mnemonic takes them (30_encoding.md rules R50 to
R52).
-/

namespace Sys2Proof.Machine

theorem exists_dyadic_iff (make : DoubleWord → DoubleWord → Instr) (vs : List Field) :
    (∃ i, dyadic make vs = .ok i) ↔ vs.length = 2 := by
  rcases vs with _ | ⟨x, _ | ⟨y, _ | ⟨z, vs⟩⟩⟩ <;> simp [dyadic]

theorem exists_unary_iff (make : Field → Instr) (vs : List Field) :
    (∃ i, unary make vs = .ok i) ↔ vs.length = 1 := by
  rcases vs with _ | ⟨x, _ | ⟨y, vs⟩⟩ <;> simp [unary]

/-- R50, R52: a mnemonic assembles exactly the lists of its number of operands. -/
theorem exists_assembleFields_iff (m : AsmMnemonic) (vs : List Field) :
    (∃ i, assembleFields m vs = .ok i) ↔ vs.length = m.arity := by
  cases m with
  | cmp | add | sub | mul => exact exists_dyadic_iff _ vs
  | from16 | to16 | neg | inc | dec | sqr | sgn => exact exists_unary_iff _ vs

/-- R50, R51: an operand has a value exactly when it is well formed, where its name, if it is one, is
bound. -/
theorem exists_resolveOperand_iff (env : HostEnv) (o : AsmOperand)
    (hbound : ∀ n, o = .name n → (lookupName n env).isSome = true) :
    (∃ v, resolveOperand env o = .ok v) ↔ o.wellFormed = true := by
  cases o with
  | literal l => exact exists_literalField_iff l
  | name n =>
    obtain ⟨v, hv⟩ := Option.isSome_iff_exists.1 (hbound n rfl)
    simp [resolveOperand, hv, AsmOperand.wellFormed]

theorem resolveOperands_cons_ok_iff (env : HostEnv) (o : AsmOperand) (os : List AsmOperand)
    (vs : List Field) :
    resolveOperands env (o :: os) = .ok vs ↔
      ∃ v vs', resolveOperand env o = .ok v ∧ resolveOperands env os = .ok vs' ∧ vs = v :: vs' := by
  rw [resolveOperands]
  cases resolveOperand env o with
  | error e => simp
  | ok v =>
    cases resolveOperands env os with
    | error e => simp
    | ok vs' => simp [eq_comm]

/-- The operands of a line have one value each. -/
theorem length_of_resolveOperands {env : HostEnv} {os : List AsmOperand} {vs : List Field}
    (h : resolveOperands env os = .ok vs) : vs.length = os.length := by
  induction os generalizing vs with
  | nil => cases h; rfl
  | cons o os ih =>
    obtain ⟨v, vs', -, hvs', rfl⟩ := (resolveOperands_cons_ok_iff env o os vs).1 h
    rw [List.length_cons, List.length_cons, ih hvs']

/-- The operands of a line whose names are bound have values exactly when each literal is well
formed (R51). -/
theorem exists_resolveOperands_iff (env : HostEnv) (os : List AsmOperand)
    (hbound : ∀ n, AsmOperand.name n ∈ os → (lookupName n env).isSome = true) :
    (∃ vs, resolveOperands env os = .ok vs) ↔ os.all AsmOperand.wellFormed = true := by
  induction os with
  | nil => simp [resolveOperands]
  | cons o os ih =>
    have ho := exists_resolveOperand_iff env o fun n hn => hbound n (hn ▸ List.mem_cons_self)
    rw [List.all_cons, Bool.and_eq_true, ← ho,
      ← ih fun n hn => hbound n (List.mem_cons_of_mem o hn)]
    simp only [resolveOperands_cons_ok_iff]
    exact ⟨fun ⟨_, v, vs, hv, hvs, _⟩ => ⟨⟨v, hv⟩, vs, hvs⟩,
      fun ⟨⟨v, hv⟩, vs, hvs⟩ => ⟨_, v, vs, hv, hvs, rfl⟩⟩

theorem assembleLine_ok_iff (env : HostEnv) (l : AsmLine) (i : Instr) :
    assembleLine env l = .ok i ↔
      ∃ vs, resolveOperands env l.operands = .ok vs ∧ assembleFields l.mnemonic vs = .ok i := by
  rw [assembleLine]
  cases resolveOperands env l.operands with
  | error e => simp
  | ok vs => simp

/-- The operands of a disassembled line, four hex digits each (R51), have the fields as values. -/
theorem resolveOperands_fieldDigits (env : HostEnv) (vs : List Field) :
    resolveOperands env (vs.map fun v => .literal (.hex (fieldDigits v))) = .ok vs := by
  induction vs with
  | nil => rfl
  | cons v vs ih =>
    rw [List.map_cons, resolveOperands_cons_ok_iff]
    exact ⟨v, vs, literalField_fieldDigits v, ih, rfl⟩

/-- A line of hexadecimal operands assembles to what its mnemonic makes of the fields. -/
theorem assembleLine_fieldDigits (env : HostEnv) (m : AsmMnemonic) (vs : List Field) :
    assembleLine env ⟨none, m, vs.map fun v => .literal (.hex (fieldDigits v))⟩ =
      assembleFields m vs := by
  rw [assembleLine, resolveOperands_fieldDigits]

theorem dyadic_bits (make : DoubleWord → DoubleWord → Instr) (a b : DoubleWord) :
    dyadic make [a.bits, b.bits] = .ok (make a b) := by
  rw [dyadic, ofField_bits, ofField_bits]

/-- R50, R51: the line of an operation assembles to it. -/
theorem assembleLine_disassembleInstr (env : HostEnv) (i : Instr) :
    assembleLine env (disassembleInstr i) = .ok i := by
  cases i with
  | cmp a b => exact (assembleLine_fieldDigits env .cmp [a.bits, b.bits]).trans (dyadic_bits _ a b)
  | add a b => exact (assembleLine_fieldDigits env .add [a.bits, b.bits]).trans (dyadic_bits _ a b)
  | sub a b => exact (assembleLine_fieldDigits env .sub [a.bits, b.bits]).trans (dyadic_bits _ a b)
  | mul a b => exact (assembleLine_fieldDigits env .mul [a.bits, b.bits]).trans (dyadic_bits _ a b)
  | from16 n => exact assembleLine_fieldDigits env .from16 [n]
  | to16 d =>
    exact (assembleLine_fieldDigits env .to16 [d.bits]).trans
      (congrArg (Except.ok <| Instr.to16 ·) (ofField_bits d))

end Sys2Proof.Machine

/-! ### Parsing what the disassembler prints

Where a separator is found in a text, and the parse of an operation's text (30_encoding.md rules R50
and R51).
-/

namespace Sys2Proof.Machine

/-- A separator is found nowhere in a text that lacks one of its characters. -/
theorem splitFirst_eq_none {sep cs : List Char} {c : Char} (hsep : c ∈ sep) (hcs : c ∉ cs) :
    splitFirst sep cs = none := by
  induction cs with
  | nil => rfl
  | cons d cs ih =>
    have hstart : ¬ sep.isPrefixOf (d :: cs) = true := fun h =>
      hcs ((List.isPrefixOf_iff_prefix.1 h).subset hsep)
    rw [splitFirst, if_neg hstart, ih fun h => hcs (List.mem_cons_of_mem d h)]

/-- A separator whose first character does not stand before it is found where it stands. -/
theorem splitFirst_append {c : Char} {pre : List Char} (hpre : c ∉ pre) (sep post : List Char) :
    splitFirst (c :: sep) (pre ++ (c :: sep ++ post)) = some (pre, post) := by
  induction pre with
  | nil => simp [splitFirst]
  | cons d pre ih =>
    have hstart : ¬ (c :: sep).isPrefixOf (d :: (pre ++ (c :: sep ++ post))) = true := by
      rw [List.isPrefixOf_cons_cons, Bool.and_eq_true, beq_iff_eq]
      exact fun h => hpre (h.1 ▸ List.mem_cons_self)
    rw [List.cons_append, splitFirst, if_neg hstart, ih fun h => hpre (List.mem_cons_of_mem d h)]

/-- R41: a digit's character stands for the digit. -/
@[simp] theorem hexDigit_hexChar (d : Nibble) : hexDigit (hexChar d) = some d := by
  revert d
  decide

theorem parseHexDigits_map_hexChar (ds : List Nibble) :
    parseHexDigits (ds.map hexChar) = some ds := by
  induction ds with
  | nil => rfl
  | cons d ds ih => simp only [List.map_cons, parseHexDigits, hexDigit_hexChar, ih]

/-- R51: four hexadecimal digits parse to their literal. -/
theorem parseOperand_hexText (v : Field) :
    parseOperand (hexText v) = some (.literal (.hex (fieldDigits v))) :=
  congrArg (Option.map fun ds => AsmOperand.literal (.hex ds))
    (parseHexDigits_map_hexChar (fieldDigits v))

/-- A hexadecimal literal holds no character but digits and its `x`. -/
theorem notMem_hexText {c : Char} (hdigit : hexDigit c = none) (hx : c ≠ 'x') (v : Field) :
    c ∉ hexText v := by
  have hzero : c ≠ '0' := fun h => by simp [h, hexDigit] at hdigit
  have hchar (d : Nibble) : hexChar d ≠ c := fun h => by simp [← h] at hdigit
  simp [hexText, hzero, hx, hchar]

/-- R50: an operand with no other. -/
theorem parseOperands_hexText (v : Field) :
    parseOperands (hexText v) = some [.literal (.hex (fieldDigits v))] := by
  have hsplit : splitFirst [',', ' '] (hexText v) = none :=
    splitFirst_eq_none (c := ',') (by decide) (notMem_hexText (by decide) (by decide) v)
  rw [parseOperands, hsplit, parseOperand_hexText, Option.map_some]

/-- R50: two operands. -/
theorem parseOperands_hexText_hexText (v w : Field) :
    parseOperands (hexText v ++ ',' :: ' ' :: hexText w) =
      some [.literal (.hex (fieldDigits v)), .literal (.hex (fieldDigits w))] := by
  have hsplit : splitFirst [',', ' '] (hexText v ++ ',' :: ' ' :: hexText w) =
      some (hexText v, hexText w) :=
    splitFirst_append (notMem_hexText (by decide) (by decide) v) [' '] (hexText w)
  simp only [parseOperands, hsplit, parseOperand_hexText]

/-- R50: each mnemonic is found by its text. -/
theorem find_mnemonicText (m : AsmMnemonic) :
    allMnemonics.find? (fun m' => mnemonicText m' == mnemonicText m) = some m := by
  cases m <;> rfl

/-- R50: a line that binds no name and has no comment is its mnemonic and its operands. -/
theorem parseLine_of_operands {m : AsmMnemonic} {text : List Char} {os : List AsmOperand}
    (hcomment : ';' ∉ text) (hos : parseOperands text = some os) :
    parseLine (mnemonicText m ++ ' ' :: text) = some ⟨none, m, os⟩ := by
  have hcode : splitFirst [' ', ';', ' '] (mnemonicText m ++ ' ' :: text) = none := by
    have hm : ';' ∉ mnemonicText m := by cases m <;> decide
    exact splitFirst_eq_none (c := ';') (by decide) (by simp [hm, hcomment])
  have hword : splitFirst [' '] (mnemonicText m ++ ' ' :: text) = some (mnemonicText m, text) :=
    splitFirst_append (by cases m <;> decide) [] text
  have hbody : parseBody none (mnemonicText m ++ ' ' :: text) = some ⟨none, m, os⟩ := by
    simp only [parseBody, hword, find_mnemonicText, hos]
  rw [parseLine, hcode, ← hbody]
  cases m <;> rfl

/-- R50, R51: the text of an operation parses to its line. -/
theorem parseLine_instrText (i : Instr) : parseLine (instrText i) = some (disassembleInstr i) := by
  have hone (v : Field) : ';' ∉ hexText v := notMem_hexText (by decide) (by decide) v
  have htwo (v w : Field) : ';' ∉ hexText v ++ ',' :: ' ' :: hexText w := by simp [hone]
  cases i with
  | cmp | add | sub | mul =>
    exact parseLine_of_operands (htwo _ _) (parseOperands_hexText_hexText _ _)
  | from16 | to16 => exact parseLine_of_operands (hone _) (parseOperands_hexText _)

end Sys2Proof.Machine

/-! ### Obligations of the encoding family

The decoder, the opcode table, the steps on presented words and the assembler's lines
(30_encoding.md).
-/

namespace Sys2Proof.Machine

/-- Settles O31: the decoder splits the fields that the encoder assembled. -/
theorem decodeOfEncode : Obligations.DecodeOfEncode :=
  decode_encode

/-- Settles O32: the decoder reads an operation from its own fields alone, and a word is its
fields. -/
theorem encodeOfDecode : Obligations.EncodeOfDecode := by
  intro w i hd
  rw [encode, (decodeRequest_eq_ok_iff _ i).1 hd, word_ofWord]

/-- Settles O34: a class of words is a set of codes and, in format U, a set of `B` fields. -/
theorem requestWordCensus : Obligations.RequestWordCensus := by
  refine ⟨fun w => ?_, ?formatD, ?formatU, ?nonzero, ?reserved⟩
  · obtain ⟨i, hd, -⟩ | ⟨-, hd⟩ | ⟨-, hd⟩ := decodeRequest_cases (Request.ofWord w)
    · exact .inl ⟨i, hd⟩
    · exact .inr (.inl hd)
    · exact .inr (.inr hd)
  case formatD =>
    rw [card_requestWords Format.D.codes.toFinset Finset.univ, Finset.card_univ, card_field]
    · decide
    · intro w
      simp only [format_eq_iff, decode, exists_decodeRequest_opcode_iff, List.mem_toFinset,
        Finset.mem_univ]
      exact and_congr_right fun hop => iff_of_true (wellFormed_of_formatD hop) trivial
  case formatU =>
    rw [card_requestWords Format.U.codes.toFinset {0#16}, Finset.card_singleton]
    · decide
    · intro w
      simp only [format_eq_iff, decode, exists_decodeRequest_opcode_iff, List.mem_toFinset,
        Finset.mem_singleton]
      exact and_congr_right wellFormed_iff_of_formatU
  case nonzero =>
    rw [card_requestWords {5#4, 6#4} {0#16}ᶜ, Finset.card_compl, card_field, Finset.card_singleton]
    · decide
    · intro w
      rw [decode, decodeRequest_eq_nonzeroUnusedOperand_iff]
      simp
  case reserved =>
    rw [card_requestWords {op | op = 0#4 ∨ 7 ≤ op.toNat} Finset.univ, Finset.card_univ, card_field]
    · decide
    · intro w
      rw [decode, decodeRequest_eq_reservedOp_iff]
      simp

/-- Settles O35: a word matches a row exactly when it is well formed with the row's code, and no
code stands in two rows. -/
theorem opcodeTableAgreesWithDecoder : Obligations.OpcodeTableAgreesWithDecoder := by
  have hmatch {r : OpcodeRow} (hr : r ∈ opcodeTable) (w : RequestWord) :
      r.matchesWord w = true ↔
        (Request.ofWord w).op = r.opcode ∧ (Request.ofWord w).wellFormed = true := by
    rw [← matchesWord_iff_wellFormed hr, word_ofWord]
  have hcodes (c : BitVec 4) : opcodeTable.countP (c = ·.opcode) ≤ 1 := by
    revert c
    decide
  refine ⟨fun r hr w => ?_, fun w => ?_⟩
  · rw [hmatch hr]
    exact (exists_decodeRequest_opcode_iff (Request.ofWord w) (· = r.opcode)).symm
  · rw [← List.countP_eq_length_filter]
    refine le_trans (List.countP_mono_left fun r hr h => ?_) (hcodes (Request.ofWord w).op)
    exact decide_eq_true ((hmatch hr w).1 h).1

/-- Settles O36, by evaluating the decoder on the six words. -/
theorem writtenWordsDecode : Obligations.WrittenWordsDecode :=
  ⟨rfl, rfl, rfl, rfl, rfl, rfl⟩

/-- Settles O37: the step on an accepted word. -/
theorem stepRunsTheDecodedRequest : Obligations.StepRunsTheDecodedRequest :=
  fun _ _ _ _ => step_present_of_ok

/-- Settles O40: the step refuses with the decoder's reason. -/
theorem unassignedWordsAreRefused : Obligations.UnassignedWordsAreRefused := by
  intro w rest s hin
  refine ⟨fun hop => ?_, fun hop hb => ?_⟩
  · exact ⟨_, step_present_of_error hin ((decodeRequest_eq_reservedOp_iff _).2 hop)⟩
  · exact ⟨_, step_present_of_error hin
      ((decodeRequest_eq_nonzeroUnusedOperand_iff _).2 ⟨hop, hb⟩)⟩

/-- Settles O51: each line of one literal makes its mnemonic's expansion, and the expansion's
operands have the values of `x` and of the constants 0 and 1. -/
theorem pseudoInstructionsRespond : Obligations.PseudoInstructionsRespond := by
  intro x s
  have hzero : dwValue (DoubleWord.ofField 0x0000#16) = 0 := by decide
  have hone : dwValue (DoubleWord.ofField 0x0001#16) = 1 := by decide
  have hline (m : AsmMnemonic) := assembleLine_fieldDigits [] m [x]
  refine ⟨⟨hline .neg, ?neg⟩, ⟨hline .inc, ?inc⟩, ⟨hline .dec, ?dec⟩, ⟨hline .sqr, ?sqr⟩,
    ⟨hline .sgn, ?sgn⟩⟩
  case neg =>
    rw [exec_sub, dwValue_ofField x, hzero, zero_sub]
    rfl
  case inc =>
    rw [exec_add, dwValue_ofField x, hone]
    rfl
  case dec =>
    rw [exec_sub, dwValue_ofField x, hone]
    rfl
  case sqr =>
    rw [exec_mul, dwValue_ofField x]
    rfl
  case sgn =>
    rw [exec_cmp, dwValue_ofField x, hzero]
    rfl

/-- Settles O52: a literal is assembled exactly when it is well formed, and the value of up to four
hex digits fits in 16 bits. -/
theorem literalsAssemble : Obligations.LiteralsAssemble := by
  refine ⟨literalField_fieldDigits, fun n hlow hhigh => ?_, fun n hn => ?_,
    fun digits hpos hle => ?_, fun digits hlength => ?_, fun i o ho => ?_⟩
  · exact ⟨_, literalField_dec hlow hhigh, rfl,
      BitVec.toInt_ofInt_eq_self (by decide) hlow (Int.lt_add_one_of_le hhigh)⟩
  · exact literalField_of_not_wellFormed (decide_eq_false (by omega))
  · have hlt : digitsValue digits < 16 ^ 4 :=
      (digitsValue_lt digits).trans_le (Nat.pow_le_pow_right (by decide) hle)
    refine ⟨_, literalField_hex hpos hle, ?_⟩
    rw [wrap, BitVec.ofInt_natCast, BitVec.toNat_ofNat, Nat.mod_eq_of_lt (hlt.trans_eq (by decide))]
  · exact literalField_of_not_wellFormed (decide_eq_false (by omega))
  · suffices h : ∃ v, o = .literal (.hex (fieldDigits v)) from
      h.imp fun v hv => ⟨hv, fieldDigits_length v⟩
    cases i with
    | cmp a b | add a b | sub a b | mul a b =>
      rcases List.mem_pair.1 ho with rfl | rfl
      · exact ⟨_, rfl⟩
      · exact ⟨_, rfl⟩
    | from16 n | to16 d => exact ⟨_, List.mem_singleton.1 ho⟩

/-- Settles O53: the printed line parses to the disassembled one, and that assembles to the
operation. -/
theorem disassemblyAssembles : Obligations.DisassemblyAssembles := by
  intro env i
  refine ⟨parseLine_instrText i, ?_⟩
  simp only [assembleText, parseLine_instrText, assembleLine_disassembleInstr]

/-- Settles O54: a line assembles when its operands have values and are as many as its mnemonic
takes. -/
theorem wellFormedLinesAssemble : Obligations.WellFormedLinesAssemble := by
  intro env l hbound
  rw [AsmLine.wellFormed, Bool.and_eq_true, decide_eq_true_iff,
    ← exists_resolveOperands_iff env l.operands hbound]
  simp only [assembleLine_ok_iff]
  constructor
  · rintro ⟨i, vs, hvs, hi⟩
    rw [← length_of_resolveOperands hvs]
    exact ⟨(exists_assembleFields_iff l.mnemonic vs).1 ⟨i, hi⟩, vs, hvs⟩
  · rintro ⟨hlength, vs, hvs⟩
    rw [← length_of_resolveOperands hvs] at hlength
    obtain ⟨i, hi⟩ := (exists_assembleFields_iff l.mnemonic vs).2 hlength
    exact ⟨i, vs, hvs, hi⟩

end Sys2Proof.Machine

/-! ### The primitives of the Word layer

The nibbles of a Word as shift and mask, and the overflow test of its addition (40_word_layer.md
rules R54, R57 and R58).
-/

namespace Sys2Proof.Machine

theorem hiNibble_setWidth (w : Word) : (hiNibble w).setWidth 8 = w >>> 4 := by
  apply BitVec.eq_of_toNat_eq
  rw [BitVec.toNat_setWidth_of_le (by decide), hiNibble_toNat, BitVec.toNat_ushiftRight,
    Nat.shiftRight_eq_div_pow]

theorem loNibble_setWidth (w : Word) : (loNibble w).setWidth 8 = w &&& 0x0F#8 := by
  apply BitVec.eq_of_toNat_eq
  rw [BitVec.toNat_setWidth_of_le (by decide), loNibble_toNat, BitVec.toNat_and]
  exact (Nat.and_two_pow_sub_one_eq_mod w.toNat 4).symm

/-- R57 is R56 without the accumulator. -/
theorem nibbleAdd_eq_nibbleAddCarry_fst (a b : Nibble) (acc : Word) :
    nibbleAdd a b = (nibbleAddCarry a b acc).1 := rfl

/-- The overflow test of R58 does not itself overflow. -/
theorem wordAdd_overflow_iff (a b : Word) : a.toNat > 255 - b.toNat ↔ a.toNat + b.toNat ≥ 256 := by
  have hb := b.isLt
  omega

/-- The carry out of a sum of two Words is its overflow test, as a number. -/
theorem wordAdd_carry_eq_ite (a b : Word) :
    (a.toNat + b.toNat) / 256 = if a.toNat > 255 - b.toNat then 1 else 0 := by
  have ha := a.isLt
  have hb := b.isLt
  split <;> omega

end Sys2Proof.Machine

/-! ### Obligations of the Word layer family

The nibble split, and the additions and the subtraction (40_word_layer.md).
-/

namespace Sys2Proof.Machine

/-- Settles O4: the two nibbles are the quotient and the remainder of the Word by 16. -/
theorem nibblesAreShiftAndMask : Obligations.NibblesAreShiftAndMask := by
  intro w
  refine ⟨hiNibble_setWidth w, loNibble_setWidth w, hiNibble_toNat w, loNibble_toNat w, ?_⟩
  rw [hiNibble_toNat, loNibble_toNat, Nat.div_add_mod]

/-- Settles O5: two nibbles sum to at most 30. -/
theorem nibbleAddCarryAccumulates : Obligations.NibbleAddCarryAccumulates := by
  intro a b acc
  obtain ⟨hresult, hacc⟩ := nibbleAddCarry_toNat a b acc
  have ha := a.isLt
  have hb := b.isLt
  exact ⟨hresult, hacc, by omega⟩

/-- Settles O6: the result is that of the addition with carry, from any accumulator. -/
theorem nibbleAddDropsOverflow : Obligations.NibbleAddDropsOverflow := by
  intro a b
  rw [nibbleAdd_eq_nibbleAddCarry_fst a b 0#8]
  exact (nibbleAddCarry_toNat a b 0#8).1

/-- Settles O7: the overflow test is the carry out of the sum. -/
theorem wordAddCarryAccumulates : Obligations.WordAddCarryAccumulates := by
  intro a b carryIn
  obtain ⟨hresult, hcarry⟩ := wordAddCarry_toNat a b carryIn
  refine ⟨hresult, ?_, wordAdd_overflow_iff a b, hcarry⟩
  rw [hcarry, wordAdd_carry_eq_ite]

/-- Settles O8: adding 256 to the difference makes it a natural number and keeps its residue. -/
theorem wordSubBorrowAccumulates : Obligations.WordSubBorrowAccumulates := by
  intro a b borrowIn
  obtain ⟨hresult, hborrow⟩ := wordSubBorrow_toNat a b borrowIn
  have hb := b.isLt
  exact ⟨by omega, hborrow⟩

end Sys2Proof.Machine

/-! ### The comparison

The Ordering that each branch of the two tiers gives, and the response that it becomes
(41_compare.md rules R61 to R63).
-/

namespace Sys2Proof.Machine

section
variable {a b : DoubleWord}

theorem compareDw_of_hi_lt (h : a.hi.toInt < b.hi.toInt) : compareDw a b = .lessThan :=
  if_pos h

theorem compareDw_of_hi_gt (h : b.hi.toInt < a.hi.toInt) : compareDw a b = .greaterThan := by
  rw [compareDw, if_neg h.not_gt, if_pos h]

/-- Where the `hi` fields are equal, the order of the `lo` fields decides. -/
theorem compareDw_of_hi_eq (h : a.hi = b.hi) :
    compareDw a b = if a.lo.toNat < b.lo.toNat then .lessThan
      else if a.lo.toNat > b.lo.toNat then .greaterThan else .equal := by
  rw [compareDw, h, if_neg (lt_irrefl _), if_neg (lt_irrefl _)]

theorem compareDw_of_lo_lt (hhi : a.hi = b.hi) (hlo : a.lo.toNat < b.lo.toNat) :
    compareDw a b = .lessThan := by
  rw [compareDw_of_hi_eq hhi, if_pos hlo]

theorem compareDw_of_lo_gt (hhi : a.hi = b.hi) (hlo : b.lo.toNat < a.lo.toNat) :
    compareDw a b = .greaterThan := by
  rw [compareDw_of_hi_eq hhi, if_neg hlo.not_gt, if_pos hlo]

theorem compareDw_of_hi_eq_of_lo_eq (hhi : a.hi = b.hi) (hlo : a.lo = b.lo) :
    compareDw a b = .equal := by
  rw [compareDw_of_hi_eq hhi, hlo, if_neg (lt_irrefl _), if_neg (lt_irrefl _)]

/-- R63: CMP completes, and its one effect is the code of the Ordering in `R`. -/
theorem exec_cmp_of_compareDw {o : DwOrdering} (h : compareDw a b = o) (s : State) :
    exec (.cmp a b) s = .next { s with response := some (orderingCode o) } := by
  rw [← h]
  rfl

/-- R62: DoubleWords of one value have one pattern. -/
theorem dwValue_eq_iff_bits_eq : dwValue a = dwValue b ↔ a.bits = b.bits :=
  BitVec.toInt_inj

end

end Sys2Proof.Machine

/-! ### Obligations of the comparison family

The signed order of the operands, and the two tiers that decide it (41_compare.md).
-/

namespace Sys2Proof.Machine

/-- Settles O9: the two tiers answer the order of the values, by trichotomy. -/
theorem compareAnswersSignedOrder : Obligations.CompareAnswersSignedOrder := by
  intro a b s
  rw [← dwValue_eq_iff_bits_eq]
  obtain ⟨h, hc⟩ | ⟨h, hc⟩ | ⟨h, hc⟩ := compareDw_cases a b
  · exact ⟨0xFFFF#16, exec_cmp_of_compareDw hc s, fun _ => rfl, fun heq => absurd heq h.ne,
      fun hgt => absurd hgt h.not_gt, .inl rfl, iff_of_false (by decide) h.ne⟩
  · exact ⟨0x0000#16, exec_cmp_of_compareDw hc s, fun hlt => absurd h hlt.ne, fun _ => rfl,
      fun hgt => absurd h hgt.ne', .inr (.inl rfl), iff_of_true rfl h⟩
  · exact ⟨0x0001#16, exec_cmp_of_compareDw hc s, fun hlt => absurd hlt h.not_gt,
      fun heq => absurd heq h.ne', fun _ => rfl, .inr (.inr rfl), iff_of_false (by decide) h.ne'⟩

/-- Settles O10: one branch of the comparison for each clause. -/
theorem compareIsTwoTier : Obligations.CompareIsTwoTier := by
  intro a b s
  exact ⟨rfl,
    fun hlt => exec_cmp_of_compareDw (compareDw_of_hi_lt hlt) s,
    fun hgt => exec_cmp_of_compareDw (compareDw_of_hi_gt hgt) s,
    fun hhi hlt => exec_cmp_of_compareDw (compareDw_of_lo_lt hhi hlt) s,
    fun hhi hgt => exec_cmp_of_compareDw (compareDw_of_lo_gt hhi hgt) s,
    fun hhi hlo => exec_cmp_of_compareDw (compareDw_of_hi_eq_of_lo_eq hhi hlo) s⟩

end Sys2Proof.Machine

/-! ### Addition and subtraction

The high words that the two values of the carry and of the borrow give, and the sums and differences
of patterns in their signed and their unsigned reading (42_add_sub.md rules R64 to R67).
-/

namespace Sys2Proof.Machine

section
variable {a b : DoubleWord}

/-- The accumulator of ADD starts at zero, so it leaves as the carry of the low words. -/
theorem addDw_hi_of_carry {c : Nat} (h : (a.lo.toNat + b.lo.toNat) / 256 = c) :
    (addDw a b).hi = wrap 8 (a.hi.toInt + b.hi.toInt + c) := by
  have ha := a.lo.isLt
  have hb := b.lo.isLt
  have hcarry : (wordAddCarry a.lo b.lo 0#8).2.toNat = c := by
    rw [(wordAddCarry_toNat a.lo b.lo 0#8).2, BitVec.toNat_ofNat]
    omega
  simp only [addDw, hcarry]

/-- The accumulator of SUB starts at zero, so it leaves as the borrow of the low words. -/
theorem subDw_hi_of_borrow {c : Nat} (h : (if a.lo.toNat < b.lo.toNat then 1 else 0) = c) :
    (subDw a b).hi = wrap 8 (a.hi.toInt - b.hi.toInt - c) := by
  have hborrow : (wordSubBorrow a.lo b.lo 0#8).2.toNat = c := by
    rw [(wordSubBorrow_toNat a.lo b.lo 0#8).2, ← h]
    split <;> rfl
  simp only [subDw, hborrow]

end

/-- R65: the signed and the unsigned reading of a DoubleWord differ by a multiple of 2^16, which
wrapping drops. -/
theorem wrap_dwValue_add_eq_wrap_toNat_add (a b : DoubleWord) :
    wrap 16 (dwValue a + dwValue b) = wrap 16 ((a.bits.toNat : Int) + b.bits.toNat) := by
  simp only [wrap, BitVec.ofInt_add, ofInt_dwValue, BitVec.ofInt_natCast, BitVec.ofNat_toNat,
    BitVec.setWidth_eq]

/-- R67: as for the sum, wrapping drops what the two readings differ by. -/
theorem wrap_dwValue_sub_eq_wrap_toNat_sub (a b : DoubleWord) :
    wrap 16 (dwValue a - dwValue b) = wrap 16 ((a.bits.toNat : Int) - b.bits.toNat) := by
  simp only [wrap, Int.sub_eq_add_neg, BitVec.ofInt_add, BitVec.ofInt_neg, ofInt_dwValue,
    BitVec.ofInt_natCast, BitVec.ofNat_toNat, BitVec.setWidth_eq]

/-- A negated value wraps to the negated pattern. -/
theorem wrap_neg_dwValue (d : DoubleWord) : wrap 16 (-dwValue d) = -d.bits := by
  rw [wrap, BitVec.ofInt_neg, ofInt_dwValue]

end Sys2Proof.Machine

/-! ### Obligations of the addition and subtraction family

The high words with their carry and borrow, and the laws of the sum and of the difference
(42_add_sub.md).
-/

namespace Sys2Proof.Machine

/-- Settles O11: the carry of the low words is 0 or 1. -/
theorem addCarriesIntoTheHighWord : Obligations.AddCarriesIntoTheHighWord := by
  intro a b s
  refine ⟨addDw a b, rfl, rfl, (wordAddCarry_toNat a.lo b.lo 0#8).1, fun hlt => ?_, fun hge => ?_⟩
  · rw [addDw_hi_of_carry (Nat.div_eq_of_lt hlt), Nat.cast_zero, add_zero]
  · have ha := a.lo.isLt
    have hb := b.lo.isLt
    have hcarry : (a.lo.toNat + b.lo.toNat) / 256 = 1 := by omega
    rw [addDw_hi_of_carry hcarry, Nat.cast_one]

/-- Settles O12: the borrow of the low words is 0 or 1. -/
theorem subBorrowsFromTheHighWord : Obligations.SubBorrowsFromTheHighWord := by
  intro a b s
  have hlo : (subDw a b).lo.toNat = (256 + a.lo.toNat - b.lo.toNat) % 256 :=
    (wordSubBorrow_toNat a.lo b.lo 0#8).1
  have hb := b.lo.isLt
  refine ⟨subDw a b, rfl, rfl, by omega, fun hle => ?_, fun hlt => ?_⟩
  · rw [subDw_hi_of_borrow (if_neg hle.not_gt), Nat.cast_zero, sub_zero]
  · rw [subDw_hi_of_borrow (if_pos hlt), Nat.cast_one]

/-- Settles O13: ADD is addition of patterns, which form a commutative group. -/
theorem addIsWrappedSum : Obligations.AddIsWrappedSum := by
  refine ⟨fun a b s => ⟨exec_add a b s, wrap_dwValue_add_eq_wrap_toNat_add a b⟩,
    fun a b => ?comm, fun a b c => ?assoc, fun a => ?zero⟩
  case comm => rw [addDw_bits, addDw_bits, BitVec.add_comm]
  case assoc => simp only [addDw_bits, BitVec.add_assoc]
  case zero => rw [addDw_bits, bits_ofField, BitVec.add_zero]

/-- Settles O14: SUB responds the wrapped difference, in either reading. -/
theorem subIsWrappedDifference : Obligations.SubIsWrappedDifference :=
  fun a b s => ⟨exec_sub a b s, wrap_dwValue_sub_eq_wrap_toNat_sub a b⟩

/-- Settles O15: SUB is subtraction of patterns, and swapping a difference negates it. -/
theorem subSwappedIsNegated : Obligations.SubSwappedIsNegated := by
  intro a b
  constructor
  · rw [wrap_neg_dwValue, subDw_bits, subDw_bits, neg_sub]
  · rw [subDw_bits, BitVec.sub_self]

end Sys2Proof.Machine

/-! ### Carries and readings of the multiplier

The operand nibbles as bits of the patterns, the sums that the positions hold without wrapping, the
carries between them, and the product in its two readings (43_multiply.md rules R68, R74, R75, R78
and R79).
-/

namespace Sys2Proof.Machine

/-- The bits of a pattern from bit 8 up are bits of the high word. -/
theorem bits_extract_of_ge (d : DoubleWord) (start len : Nat) (h : 8 ≤ start) :
    d.bits.extractLsb' start len = d.hi.extractLsb' (start - 8) len :=
  BitVec.extractLsb'_append_eq_of_le h

/-- The bits of a pattern up to bit 7 are bits of the low word. -/
theorem bits_extract_of_le (d : DoubleWord) (start len : Nat) (h : start + len ≤ 8) :
    d.bits.extractLsb' start len = d.lo.extractLsb' start len :=
  BitVec.extractLsb'_append_eq_of_add_le h

/-- R68: the nibbles of a DoubleWord's two words are the four-bit fields of its pattern. -/
theorem nibbles_eq_bits (d : DoubleWord) :
    hiNibble d.hi = d.bits.extractLsb' 12 4 ∧ loNibble d.hi = d.bits.extractLsb' 8 4 ∧
    hiNibble d.lo = d.bits.extractLsb' 4 4 ∧ loNibble d.lo = d.bits.extractLsb' 0 4 :=
  ⟨(bits_extract_of_ge d 12 4 (by decide)).symm, (bits_extract_of_ge d 8 4 (by decide)).symm,
    (bits_extract_of_le d 4 4 (by decide)).symm, (bits_extract_of_le d 0 4 (by decide)).symm⟩

/-- R70: the largest nibble is 15. -/
theorem nibble_mul_le (m n : Nibble) : m.toNat * n.toNat ≤ 225 :=
  Nat.mul_le_mul (Nat.le_of_lt_succ m.isLt) (Nat.le_of_lt_succ n.isLt)

/-- A result nibble and a carry out are the two digits of their value. -/
theorem eq_of_positionValue_eq {r q : Nibble × Word} (h : positionValue r = positionValue q) :
    r = q := by
  apply Prod.ext
  · exact BitVec.eq_of_toNat_eq (by rw [positionValue_fst, positionValue_fst, h])
  · exact BitVec.eq_of_toNat_eq (by rw [positionValue_snd, positionValue_snd, h])

theorem nibbleSum_perm {ts us : List Nibble} (h : ts.Perm us) : nibbleSum ts = nibbleSum us :=
  (h.map BitVec.toNat).sum_eq

/-- R74: a carry in that is a nibble enters whole, and a sum of less than 4096 leaves a carry out
that the accumulator holds. -/
theorem carryPosition_value_of_lt {c : Word} {ts : List Nibble} (hc : c.toNat < 16)
    (hsum : c.toNat + nibbleSum ts < 4096) :
    positionValue (carryPosition c ts) = c.toNat + nibbleSum ts := by
  rw [carryPosition_value, Nat.mod_eq_of_lt hc, Nat.mod_eq_of_lt hsum]

/-- R73: position 0 carries nothing. -/
theorem mulPosition0_carry (p : PartialProducts) : (mulPosition0 p).2 = 0#8 := rfl

/-- R79: position 1 holds its three terms, at most 45. -/
theorem mulPosition1_carry_le (p : PartialProducts) : (mulPosition1 p).2.toNat ≤ 2 := by
  have hsum : nibbleSum (position1Terms p) ≤ 45 := nibbleSum_le _
  rw [positionValue_snd, mulPosition1, mulPosition0_carry, carryPosition_value, BitVec.toNat_ofNat]
  omega

/-- R79: position 2 holds the carry of position 1 and its five terms, at most 77. -/
theorem mulPosition2_carry_le (p : PartialProducts) : (mulPosition2 p).2.toNat ≤ 4 := by
  have hcarry := mulPosition1_carry_le p
  have hsum : nibbleSum (position2Terms p) ≤ 75 := nibbleSum_le _
  rw [positionValue_snd, mulPosition2, carryPosition_value]
  omega

/-- A carry of less than 16 is its own low nibble. -/
theorem loNibble_toNat_of_lt {w : Word} (h : w.toNat < 16) : (loNibble w).toNat = w.toNat := by
  rw [loNibble_toNat, Nat.mod_eq_of_lt h]

/-- R75: the truncating position drops the high nibble of its carry in with the rest. -/
theorem truncatePosition_toNat_eq_add_mod (c : Word) (ts : List Nibble) :
    (truncatePosition c ts).toNat = (c.toNat + nibbleSum ts) % 16 := by
  rw [truncatePosition_toNat, Nat.mod_add_mod]

/-- R78: as for the sum, wrapping drops what the two readings of the product differ by. -/
theorem wrap_dwValue_mul_eq_wrap_toNat_mul (a b : DoubleWord) :
    wrap 16 (dwValue a * dwValue b) = wrap 16 ((a.bits.toNat : Int) * b.bits.toNat) := by
  simp only [wrap, BitVec.ofInt_mul, ofInt_dwValue, BitVec.ofInt_natCast, BitVec.ofNat_toNat,
    BitVec.setWidth_eq]

end Sys2Proof.Machine

/-! ### Obligations of the multiplication family

The operand nibbles, the partial products and their places, the positions and their carries, and the
law of the product (43_multiply.md).
-/

namespace Sys2Proof.Machine

/-- Settles O16: the nibbles are the four-bit fields of the patterns, which are the sums of their
digits. -/
theorem operandNibblesAreDigits : Obligations.OperandNibblesAreDigits := by
  intro a b
  obtain ⟨hA, hB, hC, hD⟩ := nibbles_eq_bits a
  obtain ⟨hE, hF, hG, hH⟩ := nibbles_eq_bits b
  refine ⟨hA, hB, hC, hD, hE, hF, hG, hH, ?_, ?_⟩
  · rw [bits_toNat_nibbles, operandNibbles]
    ring
  · rw [bits_toNat_nibbles, operandNibbles]
    ring

/-- Settles O17: a product of nibbles is at most 225, so a Word holds it. -/
theorem nibbleProductIsExact : Obligations.NibbleProductIsExact :=
  fun m n => ⟨nibbleProduct_toNat m n, nibble_mul_le m n⟩

/-- Settles O18: the lists of R72 are the placement of R71, computed position by position. -/
theorem productsArePlacedByPosition : Obligations.ProductsArePlacedByPosition :=
  fun _ => ⟨rfl, rfl, rfl, rfl, rfl, rfl⟩

/-- Settles O19: the result and the carry out are the two digits of the sum, which a permutation of
the terms keeps. -/
theorem carryPositionIsDivMod : Obligations.CarryPositionIsDivMod := by
  refine ⟨fun c ts hc hlen => ?_, fun c ts us hperm => ?_⟩
  · have hle := nibbleSum_le ts
    rw [positionValue_fst, positionValue_snd, carryPosition_value_of_lt hc (by omega)]
    exact ⟨rfl, rfl⟩
  · apply eq_of_positionValue_eq
    rw [carryPosition_value, carryPosition_value, nibbleSum_perm hperm]

/-- Settles O20: position 3 is the truncating position with the seven terms of R72. -/
theorem lastPositionTruncates : Obligations.LastPositionTruncates := by
  refine ⟨fun p => ?_, truncatePosition_toNat_eq_add_mod⟩
  rw [mulPosition3, truncatePosition_toNat_eq_add_mod]
  simp only [position3Terms, nibbleSum, List.map_cons, List.map_nil, List.sum_cons, List.sum_nil,
    add_zero, add_assoc]

/-- Settles O21: the bounds hold for every set of partial products; `0x0017 * 0x002F` reaches the
first and `0x019F * 0x01EF` the second. -/
theorem mulCarriesAreBounded : Obligations.MulCarriesAreBounded := by
  refine ⟨fun a b => ?_, ⟨⟨0x00#8, 0x17#8⟩, ⟨0x00#8, 0x2F#8⟩, by decide⟩,
    ⟨⟨0x01#8, 0x9F#8⟩, ⟨0x01#8, 0xEF#8⟩, by decide⟩⟩
  intro p
  have hc2 := mulPosition1_carry_le p
  have hc3 := mulPosition2_carry_le p
  exact ⟨mulPosition0_carry p, hc2, hc3, loNibble_toNat_of_lt (by omega),
    loNibble_toNat_of_lt (by omega)⟩

/-- Settles O22: MUL is multiplication of patterns, which is commutative, with one and zero. -/
theorem mulIsTruncatedProduct : Obligations.MulIsTruncatedProduct := by
  refine ⟨fun a b s => ⟨rfl, exec_mul a b s, wrap_dwValue_mul_eq_wrap_toNat_mul a b⟩,
    fun a b => ?comm, fun a => ?one, fun a => ?zero⟩
  case comm => rw [mulDw_bits, mulDw_bits, BitVec.mul_comm]
  case one => rw [mulDw_bits, bits_ofField, BitVec.mul_one]
  case zero => rw [mulDw_bits, bits_ofField, BitVec.mul_zero]

end Sys2Proof.Machine

/-! ### The conversions on fields

FROM16 splits a field into the DoubleWord that has it as its pattern, and TO16 assembles that
pattern, so both write the field they are given (44_convert.md rules R80, R81 and R83).
-/

namespace Sys2Proof.Machine

/-- R80: the high word of a field is the floor of its native value over 256, as the low word is at
least 0 and less than 256. -/
theorem ofField_hi_toInt (n : Native) : (DoubleWord.ofField n).hi.toInt = n.toInt / 256 := by
  have hlo := (DoubleWord.ofField n).lo.isLt
  rw [← dwValue_ofField, dwValue_eq]
  omega

/-- R80: the low word of a field is its native value modulo 256. -/
theorem ofField_lo_toNat_eq_emod (n : Native) :
    ((DoubleWord.ofField n).lo.toNat : Int) = n.toInt % 256 := by
  have hlo := (DoubleWord.ofField n).lo.isLt
  rw [← dwValue_ofField, dwValue_eq]
  omega

/-- R80: the arithmetic shift is the floor of the value over 256, which narrows to `n[15:8]`. -/
theorem wrap_sshiftRight_eq_extract (n : Native) :
    wrap 8 (n.sshiftRight 8).toInt = n.extractLsb' 8 8 := by
  have hfloor : (n.sshiftRight 8).toInt = (n.extractLsb' 8 8).toInt :=
    calc (n.sshiftRight 8).toInt
      _ = n.toInt / 256 := by rw [BitVec.toInt_sshiftRight, Int.shiftRight_eq_div_pow]; rfl
      _ = (n.extractLsb' 8 8).toInt := (ofField_hi_toInt n).symm
  rw [hfloor, wrap, BitVec.ofInt_toInt]

/-- R80: FROM16's computation is the split of its field. -/
theorem fromInt16_eq_ofField (n : Native) : fromInt16 n = DoubleWord.ofField n :=
  congrArg (DoubleWord.mk · (n.extractLsb' 0 8)) (wrap_sshiftRight_eq_extract n)

/-- R83: FROM16 writes the field it is given. -/
theorem exec_from16 (n : Native) (s : State) :
    exec (.from16 n) s = .next (writeResponse n s) := by
  rw [show exec (.from16 n) s = .next (writeResponse (fromInt16 n).bits s) from rfl,
    fromInt16_eq_ofField, bits_ofField]

/-- R81, R83: TO16 writes the pattern of its operand. -/
theorem exec_to16 (d : DoubleWord) (s : State) :
    exec (.to16 d) s = .next (writeResponse d.bits s) := rfl

end Sys2Proof.Machine

/-! ### Obligations of the conversion family

The two conversions, their round trip and their identity on fields (44_convert.md).
-/

namespace Sys2Proof.Machine

/-- Settles O23: the DoubleWord is the split of the field. -/
theorem from16SplitsTheValue : Obligations.From16SplitsTheValue := by
  intro n s
  refine ⟨DoubleWord.ofField n, rfl, ?exec, (wrap_sshiftRight_eq_extract n).symm, rfl, rfl,
    ofField_hi_toInt n, ofField_lo_toNat_eq_emod n⟩
  case exec => rw [bits_ofField, exec_from16, writeResponse]

/-- Settles O24: what TO16 writes is the pattern of `d`, whose signed value is the value of `d`. -/
theorem to16JoinsTheBytes : Obligations.To16JoinsTheBytes :=
  fun d s => ⟨rfl, exec_to16 d s, dwValue_eq d⟩

/-- Settles O25: each way the first response is the field of the operand, and splitting and
assembling a field are inverse. -/
theorem conversionsRoundTrip : Obligations.ConversionsRoundTrip := by
  refine ⟨fun n s => ?native, fun d s => ?doubleWord⟩
  case native =>
    refine ⟨_, n, _, exec_from16 n s, rfl, exec_to16 _ _, ?_⟩
    rw [writeResponse_response, bits_ofField]
  case doubleWord =>
    exact ⟨_, d.bits, _, exec_to16 d s, rfl, exec_from16 d.bits _, rfl⟩

/-- Settles O26: FROM16 writes its field, and TO16 assembles the field its operand was split from. -/
theorem conversionsAreBitIdentity : Obligations.ConversionsAreBitIdentity := by
  intro a s
  refine ⟨exec_from16 a s, ?_⟩
  rw [exec_to16, bits_ofField, writeResponse]

end Sys2Proof.Machine

/-! ### Classes of requests and steps of a platform

What the obligations on refusals and idle units turn on: the codes of a class of requests (R87 and
R48), the idle step (R98), and what a step of one unit of a platform can do (R96).
-/

namespace Sys2Proof

/-- R46: the reserved codes, listed and as a range. -/
theorem mem_reservedCodes_iff (op : BitVec 4) :
    op ∈ [0#4, 7#4, 8#4, 9#4, 10#4, 11#4, 12#4, 13#4, 14#4, 15#4] ↔ op = 0#4 ∨ 7 ≤ op.toNat := by
  revert op
  decide

/-- R45: a code that is not reserved is a code of one of the two formats. -/
theorem not_reserved_iff (op : BitVec 4) :
    ¬(op = 0#4 ∨ 7 ≤ op.toNat) ↔ op ∈ Format.D.codes ∨ op ∈ Format.U.codes := by
  revert op
  decide

/-- R45, R47: a well-formed request has a format D code, or a format U code and a zero `B`. -/
theorem wellFormed_iff_codes (q : Request) :
    q.wellFormed = true ↔
      q.op ∈ Format.D.codes ∨ q.op ∈ Format.U.codes ∧ q.b = 0#16 := by
  constructor
  · intro hwf
    rcases (not_reserved_iff q.op).1 ((wellFormed_iff q).1 hwf).1 with hD | hU
    · exact .inl hD
    · exact .inr ⟨hU, (wellFormed_iff_of_formatU hU).1 hwf⟩
  · rintro (hD | ⟨hU, hb⟩)
    · exact wellFormed_of_formatD hD
    · exact (wellFormed_iff_of_formatU hU).2 hb

namespace Machine

/-- R98: a unit with nothing presented is idle. -/
theorem step_of_nil {s : State} (h : s.inputs = []) : step s = .next s := by
  simp only [step, advance, h]

/-- R96: a step of unit `k` that goes on writes that unit's own next state in its place. -/
theorem stepUnit_next {n : Nat} {k : Fin n} {p p' : Platform n} (h : stepUnit k p = .next p') :
    ∃ t, step p[k] = .next t ∧ p' = p.set k t := by
  unfold stepUnit at h
  split at h
  · next t ht =>
    cases h
    exact ⟨t, ht, rfl⟩
  · cases h
  · cases h

end Machine

end Sys2Proof

/-! ### Obligations of the exceptions family

Every operation responds, the two reasons of refusal, the mark, idle units and platforms
(60_exceptions.md).
-/

namespace Sys2Proof.Machine

/-- Settles O33: the decoder's refusals by their fields, and the codes of the two formats. -/
theorem requestWordsAreClassified : Obligations.RequestWordsAreClassified := by
  intro w q
  have haccepted : (∃ i, decode w = .ok i) ↔ q.wellFormed = true := exists_decodeRequest_iff q
  refine ⟨?reserved, decodeRequest_eq_nonzeroUnusedOperand_iff q, ?codes, haccepted⟩
  case reserved => exact (decodeRequest_eq_reservedOp_iff q).trans (mem_reservedCodes_iff q.op).symm
  case codes => simpa [Format.codes] using haccepted.trans (wellFormed_iff_codes q)

/-- Settles O39: the refusal writes the request fields and the mark alone, and an operation that
runs from there writes its response and keeps the mark. -/
theorem refusedRequestOnlySetsTheMark : Obligations.RefusedRequestOnlySetsTheMark := by
  intro w reason rest s hin hd
  refine ⟨_, step_present_of_error hin hd, rfl, rfl, rfl, rfl, rfl, ?next⟩
  case next =>
    intro w' i rest' hrest hd'
    obtain ⟨v, hv, hstep⟩ := step_present_writes_responseAlone
      (s := setRefusalMark (presentRequest w { s with inputs := rest })) hrest hd'
    exact ⟨_, hstep, hv.symm, rfl⟩

/-- Settles O41: of the steps that go on, reset alone writes the mark, and clears it. -/
theorem markIsClearedByResetAlone : Obligations.MarkIsClearedByResetAlone := by
  intro s t h
  obtain ⟨hin, rfl⟩ | ⟨w, rest, i, v, hin, -, -, rfl⟩ | ⟨rest, v, hin, -, rfl⟩ |
    ⟨rest, hin, rfl⟩ := step_next_cases h
  · simp [hin]
  · simp [hin]
  · simp [hin]
  · simp [hin]

/-- Settles O50: the step replaces the state at `k` and no other. -/
theorem platformUnitsAreIndependent : Obligations.PlatformUnitsAreIndependent := by
  intro n k p p' h
  obtain ⟨t, ht, rfl⟩ := stepUnit_next h
  refine ⟨?own, fun j hj => ?others⟩
  case own => rw [ht, Fin.getElem_fin, Vector.getElem_set_self]
  case others => exact Vector.getElem_set_ne _ _ (Fin.val_ne_of_ne hj.symm)

/-- Settles O27: every operation is one write of the response. -/
theorem everyOperationResponds : Obligations.EveryOperationResponds := by
  intro i s
  obtain ⟨v, hv⟩ := exec_writes_response i
  exact ⟨v, hv s⟩

/-- Settles O46: the idle step. -/
theorem idleUnitHolds : Obligations.IdleUnitHolds :=
  fun _ => step_of_nil

end Sys2Proof.Machine

/-! ### Safe states

What the host's duties ask of its next action (R102), and when a state is safe: the facts on which
the invariant turns.
-/

namespace Sys2Proof.Machine

/-- R102, first duty: a dutiful host presents an accepted word, and from then on `R` holds a value. -/
theorem dutifulFrom_present_iff (written : Bool) (w : RequestWord) (rest : List HostEvent) :
    dutifulFrom written (.present w :: rest) = true ↔
      accepted w = true ∧ dutifulFrom true rest = true := by
  rw [dutifulFrom, Bool.and_eq_true]

/-- R102, second duty: a dutiful host reads `R` only where it holds a value. -/
theorem dutifulFrom_readResponse_iff (written : Bool) (rest : List HostEvent) :
    dutifulFrom written (.readResponse :: rest) = true ↔
      written = true ∧ dutifulFrom written rest = true := by
  rw [dutifulFrom, Bool.and_eq_true]

/-- R99, R102: after its reset a dutiful host keeps its duties from an unwritten `R` on. -/
theorem dutifulFrom_reset (written : Bool) (rest : List HostEvent) :
    dutifulFrom written (.reset :: rest) = dutifulFrom false rest := rfl

theorem safe_iff (s : State) :
    s.safe = true ↔ s.refusalMark = false ∧ dutifulFrom s.response.isSome s.inputs = true := by
  rw [State.safe, State.meaningful, State.hostDutiful, Bool.and_eq_true, Bool.not_eq_true']

/-- R99, R100: of what a unit holds, reset keeps the host's two lists alone. -/
theorem resetUnit_eq (s : State) :
    resetUnit s = { State.reset with inputs := s.inputs, taken := s.taken } := rfl

end Sys2Proof.Machine

/-! ### Obligations of the reset and hazards family

Reset, the read of an unwritten `R`, and the invariant a dutiful host keeps
(70_reset_and_hazards.md).
-/

namespace Sys2Proof.Machine

/-- Settles O47, by the host's next action: the duty it keeps is what its step needs to go on, and
the duties from there on are those of the next state, whose mark no such step sets. -/
theorem dutifulHostNeverStops : Obligations.DutifulHostNeverStops := by
  intro s hs
  obtain ⟨hmark, hduty⟩ := (safe_iff s).1 hs
  cases hin : s.inputs with
  | nil => exact ⟨s, step_of_nil hin, hs⟩
  | cons e rest =>
    rw [hin] at hduty
    cases e with
    | present w =>
      obtain ⟨haccepted, hrest⟩ := (dutifulFrom_present_iff _ w rest).1 hduty
      obtain ⟨i, hd⟩ := (accepted_iff w).1 haccepted
      obtain ⟨v, -, hstep⟩ := step_present_writes_responseAlone hin hd
      exact ⟨_, hstep, (safe_iff _).2 ⟨hmark, hrest⟩⟩
    | readResponse =>
      obtain ⟨hwritten, hrest⟩ := (dutifulFrom_readResponse_iff _ rest).1 hduty
      obtain ⟨v, hv⟩ := Option.isSome_iff_exists.1 hwritten
      exact ⟨_, step_readResponse_of_some hin hv, (safe_iff _).2 ⟨hmark, hrest⟩⟩
    | reset =>
      rw [dutifulFrom_reset] at hduty
      exact ⟨_, step_reset hin, (safe_iff _).2 ⟨resetUnit_refusalMark _, hduty⟩⟩

/-- Settles O43: of the steps that write `R`, a reset leaves it without a value, so one that gives it
a value presents an accepted word. -/
theorem readBeforeResponseFaults : Obligations.ReadBeforeResponseFaults := by
  refine ⟨reset_response, ?reset, ?read, ?write⟩
  case reset => exact fun rest s hin => ⟨_, step_reset hin, resetUnit_response _⟩
  case read => exact fun rest s hin hnone => ⟨_, step_readResponse_of_none hin hnone⟩
  case write =>
    intro s t h hnone hsome
    have hne : t.response ≠ s.response := by rwa [hnone]
    rcases step_changes_response_cases h hne with ⟨-, hreset⟩ | hpresent
    · exact absurd hreset hsome
    · exact hpresent

/-- Settles O45: the reset step, and what reset keeps. -/
theorem resetLeavesNoValue : Obligations.ResetLeavesNoValue := by
  intro rest s hin
  rw [step_reset hin, resetUnit_eq]

/-- Settles O48: after reset the mark is clear and `R` unwritten, so the duties are all that a safe
state needs. -/
theorem resetIsSafe : Obligations.ResetIsSafe := by
  have hsafe : ∀ es, dutifulFrom false es = true →
      ({ State.reset with inputs := es } : State).safe = true :=
    fun es hduty => (safe_iff _).2 ⟨reset_refusalMark, hduty⟩
  exact ⟨hsafe [] rfl, hsafe⟩

end Sys2Proof.Machine
